-- ==== Sys2Proof/Word.lean ====
section
/-! DEFINITION. The machine's two word types (R6): a byte, and a 16-bit address or program counter. -/

namespace Sys2Proof

/-- `u8` (R8): the width of A, X, Y, SP, the status byte and every memory cell. -/
abbrev Byte := BitVec 8

/-- `u16` (R8): the width of PC and of every address. -/
abbrev Word := BitVec 16

end Sys2Proof
end

