-- ==== Sys2Proof/Config.lean ====
section
/-! DEFINITION. What an implementation fixes (the named parameters of R7), and the free values that the
spec draws under no law. -/

namespace Sys2Proof

/-- The named parameters of R7 that stay fixed while the machine runs. `memSize` and `DEV` are not
here: host calls change them (R51, R53), so they are fields of the state. -/
structure Config where
  /-- Which of the 79 optional undocumented opcodes have behaviour (R310, D2). -/
  undocPopulated : List Byte
  /-- Which unpopulated opcodes report `IllegalInstruction` (R136, D3). -/
  illegalLabelled : List Byte
  /-- The entries of `baseCycles` that differ from the NMOS table (R137, D4). -/
  baseCycles : List (Byte × Nat)
  /-- Whether stores and read-modify-writes also take the page-cross cycle (R115, D5). -/
  penaltyOnWrites : Bool
  /-- Whether a zero-page pointer at 0xFF takes its high byte from 0x0000 (R119, D7). -/
  zpPointerWrap : Bool
  /-- The cycles a KIL opcode charges (R134, D20). -/
  kilCycles : Nat
  /-- Bit 5 of every assembled status byte (R30, D25). -/
  bit5Value : Bool
  deriving DecidableEq, Repr

/-- The `k`-th free draw of a byte (R40, R72, R327 to R332): nothing constrains it. DESIGN CHOICE, safe:
a law about a draw holds for every value. -/
opaque Config.freeByte : Nat → Byte

/-- The `k`-th free draw of an address (R329 to R332): nothing constrains it. DESIGN CHOICE, safe. -/
opaque Config.freeWord : Nat → Word

/-- What the safe read answers beyond `memSize`: any byte (R61). DESIGN CHOICE, safe. -/
opaque Config.safeByte : Word → Byte

/-- The OPEN parameter `illegalLabelled` (D3), at launch. DESIGN CHOICE, safe: no value is fixed. -/
opaque Config.openIllegalLabelled : List Byte

/-- The OPEN parameter `zpPointerWrap` (D7), at launch. DESIGN CHOICE, safe: no value is fixed. -/
opaque Config.openZpPointerWrap : Bool

/-- The OPEN parameter `kilCycles` (D20), at launch. DESIGN CHOICE, safe: no value is fixed. -/
opaque Config.openKilCycles : Nat

end Sys2Proof
end

