-- ==== Sys2Proof/Machine/OpClass.lean ====
section
/-! DEFINITION. The class of an opcode byte (R132, R133) and its base cycles (R137, R424). -/

namespace Sys2Proof

/-- The twelve KIL/JAM opcodes (R85, R311). -/
def kilOpcodes : List Byte :=
  [0x02, 0x12, 0x22, 0x32, 0x42, 0x52, 0x62, 0x72, 0x92, 0xB2, 0xD2, 0xF2]

/-- The 79 optional undocumented opcodes: those marked `*` in R84's map (R310). -/
def optionalOpcodes : List Byte :=
  [0x04, 0x0B, 0x0C,
   0x14, 0x1A, 0x1C,
   0x23, 0x27, 0x2B, 0x2F,
   0x33, 0x34, 0x37, 0x3A, 0x3B, 0x3C, 0x3F,
   0x43, 0x44, 0x47, 0x4B, 0x4F,
   0x53, 0x54, 0x57, 0x5A, 0x5B, 0x5C, 0x5F,
   0x63, 0x64, 0x67, 0x6B, 0x6F,
   0x73, 0x74, 0x77, 0x7A, 0x7B, 0x7C, 0x7F,
   0x80, 0x82, 0x83, 0x87, 0x89, 0x8B, 0x8F,
   0x93, 0x97, 0x9B, 0x9C, 0x9E, 0x9F,
   0xA3, 0xA7, 0xAB, 0xAF,
   0xB3, 0xB7, 0xBB, 0xBF,
   0xC2, 0xC3, 0xC7, 0xCB, 0xCF,
   0xD3, 0xD4, 0xD7, 0xDA, 0xDB, 0xDC, 0xDF,
   0xE2, 0xEB,
   0xF4, 0xFA, 0xFC]

/-- The three dispatch classes of R131. -/
inductive OpClass where
  | populated | halt | unpopulated
  deriving DecidableEq, Repr

/-- Whether an opcode has behaviour under the configuration: every opcode outside the optional set,
and those of the optional set that `undocPopulated` names (R133, R310). -/
def Config.populates (cfg : Config) (op : Byte) : Bool :=
  !optionalOpcodes.contains op || cfg.undocPopulated.contains op

/-- `Class(op)`, total on the 256 bytes (R132). -/
def Config.classOf (cfg : Config) (op : Byte) : OpClass :=
  if kilOpcodes.contains op then .halt
  else if cfg.populates op then .populated
  else .unpopulated

/-- The NMOS base cycle table by high nibble (row) and low nibble (column) (R424). The KIL entries are 0:
their cost is `kilCycles`, charged by KIL's own rule (R134). -/
def nmosCycleRows : List (List Nat) :=
  [[7, 6, 0, 8, 3, 3, 5, 5, 3, 2, 2, 2, 4, 4, 6, 6],
   [2, 5, 0, 8, 4, 4, 6, 6, 2, 4, 2, 7, 4, 4, 7, 7],
   [6, 6, 0, 8, 3, 3, 5, 5, 4, 2, 2, 2, 4, 4, 6, 6],
   [2, 5, 0, 8, 4, 4, 6, 6, 2, 4, 2, 7, 4, 4, 7, 7],
   [6, 6, 0, 8, 3, 3, 5, 5, 3, 2, 2, 2, 3, 4, 6, 6],
   [2, 5, 0, 8, 4, 4, 6, 6, 2, 4, 2, 7, 4, 4, 7, 7],
   [6, 6, 0, 8, 3, 3, 5, 5, 4, 2, 2, 2, 5, 4, 6, 6],
   [2, 5, 0, 8, 4, 4, 6, 6, 2, 4, 2, 7, 4, 4, 7, 7],
   [2, 6, 2, 6, 3, 3, 3, 3, 2, 2, 2, 2, 4, 4, 4, 4],
   [2, 6, 0, 6, 4, 4, 4, 4, 2, 5, 2, 5, 5, 5, 5, 5],
   [2, 6, 2, 6, 3, 3, 3, 3, 2, 2, 2, 2, 4, 4, 4, 4],
   [2, 5, 0, 5, 4, 4, 4, 4, 2, 4, 2, 4, 4, 4, 4, 4],
   [2, 6, 2, 8, 3, 3, 5, 5, 2, 2, 2, 2, 4, 4, 6, 6],
   [2, 5, 0, 8, 4, 4, 6, 6, 2, 4, 2, 7, 4, 4, 7, 7],
   [2, 6, 2, 8, 3, 3, 5, 5, 2, 2, 2, 2, 4, 4, 6, 6],
   [2, 5, 0, 8, 4, 4, 6, 6, 2, 4, 2, 7, 4, 4, 7, 7]]

/-- The entry of R424's table for one opcode. -/
def nmosCycles (op : Byte) : Nat :=
  (nmosCycleRows.getD (op.toNat / 16) []).getD (op.toNat % 16) 0

/-- `baseCycles(op)` (R137): the configuration's own entry for the opcode, else the NMOS table (D4). -/
def Config.baseCyclesOf (cfg : Config) (op : Byte) : Nat :=
  (cfg.baseCycles.lookup op).getD (nmosCycles op)

end Sys2Proof
end

