-- ==== Sys2Proof/Machine/Bits.lean ====
section
/-! DEFINITION. Byte order, extension and page arithmetic: the value helpers of R8 and R11. -/

namespace Sys2Proof

/-- `cat(h, l) = h * 256 + l` (R8). -/
def cat (h l : Byte) : Word := h ++ l

/-- `v[15:8]` (R8). -/
def hiByte (w : Word) : Byte := w.extractLsb' 8 8

/-- `v[7:0]` (R8). -/
def loByte (w : Word) : Byte := w.extractLsb' 0 8

/-- `zext_16(v)` (R8). -/
def zext16 (v : Byte) : Word := v.setWidth 16

/-- `sext_16(v)`: `v` below 0x80, else `v + 0xFF00` (R8). -/
def sext16 (v : Byte) : Word := v.signExtend 16

/-- Page-cross detection: bit 8 of the exclusive or (R11, R114). -/
def pageCross (a b : Word) : Bool := (a ^^^ b).getLsbD 8

/-- The address in the stack page that offset `sp` names: `0x0100 + SP` (R26). -/
def stackAddr (sp : Byte) : Word := cat 0x01 sp

end Sys2Proof
end

