-- ==== Sys2Proof/Machine/Mode.lean ====
section
/-! DEFINITION. The addressing modes (R81, R100): their names, and each mode with its operand bytes. -/

namespace Sys2Proof

/-- The thirteen formats of R81, as the `format` column of opcode_table.json names them (R91). -/
inductive Format where
  | IMP | ACC | IMM | ZP | ZPX | ZPY | ABS | ABSX | ABSY | IND | IZX | IZY | REL
  deriving DecidableEq, Repr

/-- A mode with the operand bytes of the instruction (R83). Two operand bytes are one address,
`cat(hi, lo)`. -/
inductive Mode where
  /-- Implied (R112). -/
  | imp
  /-- Accumulator (R111). -/
  | acc
  /-- Immediate (R101). -/
  | imm (v : Byte)
  /-- Zero page (R102). -/
  | zp (a : Byte)
  /-- Zero page,X (R103). -/
  | zpX (a : Byte)
  /-- Zero page,Y (R104). -/
  | zpY (a : Byte)
  /-- Absolute (R105). -/
  | abs (w : Word)
  /-- Absolute,X (R106). -/
  | absX (w : Word)
  /-- Absolute,Y (R107). -/
  | absY (w : Word)
  /-- Indirect, of JMP only (R108). -/
  | ind (w : Word)
  /-- Indexed indirect, `(zp,X)` (R109). -/
  | izx (a : Byte)
  /-- Indirect indexed, `(zp),Y` (R110). -/
  | izy (a : Byte)
  /-- Relative (R113). -/
  | rel (d : Byte)
  deriving DecidableEq, Repr

/-- The format of a mode (R81). BRK's row has the format IMP; its padding byte is no operand
and stands in its constructor (R292). -/
def Mode.format : Mode → Format
  | .imp => .IMP
  | .acc => .ACC
  | .imm _ => .IMM
  | .zp _ => .ZP
  | .zpX _ => .ZPX
  | .zpY _ => .ZPY
  | .abs _ => .ABS
  | .absX _ => .ABSX
  | .absY _ => .ABSY
  | .ind _ => .IND
  | .izx _ => .IZX
  | .izy _ => .IZY
  | .rel _ => .REL

end Sys2Proof
end

