-- ==== Sys2Proof/Syntax.lean ====
section
/-! DEFINITION. The instructions: every row of spec/opcode_table.json is one constructor with one of
the operand forms (modes) that its rule lists. Rows of one mnemonic and one rule are one constructor
and differ in the mode, as the rules R150 to R332 are written; rows that share mnemonic and mode (KIL,
the undocumented NOPs, ANC) carry their opcode byte. The two rows whose mnemonic is that of an official
instruction but whose rule is another (`NOP` of R320, `SBC` 0xEB of R321) have constructors of their own. -/

namespace Sys2Proof

inductive Instr where
  -- 42: loads, stores, transfers (R150 to R161)
  | lda (m : Mode)
  | ldx (m : Mode)
  | ldy (m : Mode)
  | sta (m : Mode)
  | stx (m : Mode)
  | sty (m : Mode)
  | tax
  | tay
  | txa
  | tya
  | tsx
  | txs
  -- 43: arithmetic, logic, compares, increments (R183 to R197)
  | adc (m : Mode)
  | sbc (m : Mode)
  | and (m : Mode)
  | ora (m : Mode)
  | eor (m : Mode)
  | cmp (m : Mode)
  | cpx (m : Mode)
  | cpy (m : Mode)
  | bit (m : Mode)
  | inc (m : Mode)
  | dec (m : Mode)
  | inx
  | iny
  | dex
  | dey
  -- 44: shifts and rotates (R231 to R234)
  | asl (m : Mode)
  | lsr (m : Mode)
  | rol (m : Mode)
  | ror (m : Mode)
  -- 45: branches, jumps, subroutines (R251 to R261); `d` is the displacement byte
  | bcc (d : Byte)
  | bcs (d : Byte)
  | beq (d : Byte)
  | bmi (d : Byte)
  | bne (d : Byte)
  | bpl (d : Byte)
  | bvc (d : Byte)
  | bvs (d : Byte)
  | jmp (m : Mode)
  | jsr (target : Word)
  | rts
  -- 46: stack, flags, system (R280 to R293); BRK carries its padding byte
  | pha
  | php
  | pla
  | plp
  | clc
  | cld
  | cli
  | clv
  | sec
  | sed
  | sei
  | nop
  | brk (pad : Byte)
  | rti
  -- 47: undocumented opcodes (R311 to R332)
  | kil (op : Byte)
  | slo (m : Mode)
  | isc (m : Mode)
  | rla (m : Mode)
  | sre (m : Mode)
  | rra (m : Mode)
  | dcp (m : Mode)
  | lax (m : Mode)
  | sax (m : Mode)
  | nopUndoc (op : Byte) (m : Mode)
  | usbc (v : Byte)
  | anc (op : Byte) (v : Byte)
  | alr (v : Byte)
  | arr (v : Byte)
  | axs (v : Byte)
  | las (w : Word)
  | xaa (v : Byte)
  | lxa (v : Byte)
  | ahx (m : Mode)
  | shy (w : Word)
  | shx (w : Word)
  | tas (w : Word)
  deriving DecidableEq, Repr

end Sys2Proof
end

