-- ==== Sys2Proof/WellFormed.lean ====
section
/-! DEFINITION. Which terms the spec gives a row: the operand forms each rule lists under "Operands",
the opcode bytes of the rows that share mnemonic and mode, and which configurations R7 admits. -/

namespace Sys2Proof

/-- The opcodes of the undocumented NOPs of one format (R320). -/
def undocNopOpcodes : Format → List Byte
  | .IMP => [0x1A, 0x3A, 0x5A, 0x7A, 0xDA, 0xFA]
  | .IMM => [0x80, 0x82, 0x89, 0xC2, 0xE2]
  | .ZP => [0x04, 0x44, 0x64]
  | .ZPX => [0x14, 0x34, 0x54, 0x74, 0xD4, 0xF4]
  | .ABS => [0x0C]
  | .ABSX => [0x1C, 0x3C, 0x5C, 0x7C, 0xDC, 0xFC]
  | .ACC => []
  | .ZPY => []
  | .ABSY => []
  | .IND => []
  | .IZX => []
  | .IZY => []
  | .REL => []

/-- The opcodes of ANC (R322). -/
def ancOpcodes : List Byte := [0x0B, 0x2B]

/-- The instruction is a row of opcode_table.json: its mode is one its rule admits, and its opcode byte,
where it carries one, is one its rule lists (R150 to R332). Operand values need no check: every byte and
every address is an operand (R83). -/
def Instr.wellFormed : Instr → Bool
  | .lda m => [Format.IMM, .ZP, .ZPX, .ABS, .ABSX, .ABSY, .IZX, .IZY].contains m.format
  | .ldx m => [Format.IMM, .ZP, .ZPY, .ABS, .ABSY].contains m.format
  | .ldy m => [Format.IMM, .ZP, .ZPX, .ABS, .ABSX].contains m.format
  | .sta m => [Format.ZP, .ZPX, .ABS, .ABSX, .ABSY, .IZX, .IZY].contains m.format
  | .stx m => [Format.ZP, .ZPY, .ABS].contains m.format
  | .sty m => [Format.ZP, .ZPX, .ABS].contains m.format
  | .tax => true
  | .tay => true
  | .txa => true
  | .tya => true
  | .tsx => true
  | .txs => true
  | .adc m => [Format.IMM, .ZP, .ZPX, .ABS, .ABSX, .ABSY, .IZX, .IZY].contains m.format
  | .sbc m => [Format.IMM, .ZP, .ZPX, .ABS, .ABSX, .ABSY, .IZX, .IZY].contains m.format
  | .and m => [Format.IMM, .ZP, .ZPX, .ABS, .ABSX, .ABSY, .IZX, .IZY].contains m.format
  | .ora m => [Format.IMM, .ZP, .ZPX, .ABS, .ABSX, .ABSY, .IZX, .IZY].contains m.format
  | .eor m => [Format.IMM, .ZP, .ZPX, .ABS, .ABSX, .ABSY, .IZX, .IZY].contains m.format
  | .cmp m => [Format.IMM, .ZP, .ZPX, .ABS, .ABSX, .ABSY, .IZX, .IZY].contains m.format
  | .cpx m => [Format.IMM, .ZP, .ABS].contains m.format
  | .cpy m => [Format.IMM, .ZP, .ABS].contains m.format
  | .bit m => [Format.ZP, .ABS].contains m.format
  | .inc m => [Format.ZP, .ZPX, .ABS, .ABSX].contains m.format
  | .dec m => [Format.ZP, .ZPX, .ABS, .ABSX].contains m.format
  | .inx => true
  | .iny => true
  | .dex => true
  | .dey => true
  | .asl m => [Format.ACC, .ZP, .ZPX, .ABS, .ABSX].contains m.format
  | .lsr m => [Format.ACC, .ZP, .ZPX, .ABS, .ABSX].contains m.format
  | .rol m => [Format.ACC, .ZP, .ZPX, .ABS, .ABSX].contains m.format
  | .ror m => [Format.ACC, .ZP, .ZPX, .ABS, .ABSX].contains m.format
  | .bcc _ => true
  | .bcs _ => true
  | .beq _ => true
  | .bmi _ => true
  | .bne _ => true
  | .bpl _ => true
  | .bvc _ => true
  | .bvs _ => true
  | .jmp m => [Format.ABS, .IND].contains m.format
  | .jsr _ => true
  | .rts => true
  | .pha => true
  | .php => true
  | .pla => true
  | .plp => true
  | .clc => true
  | .cld => true
  | .cli => true
  | .clv => true
  | .sec => true
  | .sed => true
  | .sei => true
  | .nop => true
  | .brk _ => true
  | .rti => true
  | .kil op => kilOpcodes.contains op
  | .slo m => [Format.ZP, .ZPX, .ABS, .ABSX, .ABSY, .IZX, .IZY].contains m.format
  | .isc m => [Format.ZP, .ZPX, .ABS, .ABSX, .ABSY, .IZX, .IZY].contains m.format
  | .rla m => [Format.ZP, .ZPX, .ABS, .ABSX, .ABSY, .IZX, .IZY].contains m.format
  | .sre m => [Format.ZP, .ZPX, .ABS, .ABSX, .ABSY, .IZX, .IZY].contains m.format
  | .rra m => [Format.ZP, .ZPX, .ABS, .ABSX, .ABSY, .IZX, .IZY].contains m.format
  | .dcp m => [Format.ZP, .ZPX, .ABS, .ABSX, .ABSY, .IZX, .IZY].contains m.format
  | .lax m => [Format.ZP, .ZPY, .ABS, .ABSY, .IZX, .IZY].contains m.format
  | .sax m => [Format.ZP, .ZPY, .ABS, .IZX].contains m.format
  | .nopUndoc op m => (undocNopOpcodes m.format).contains op
  | .usbc _ => true
  | .anc op _ => ancOpcodes.contains op
  | .alr _ => true
  | .arr _ => true
  | .axs _ => true
  | .las _ => true
  | .xaa _ => true
  | .lxa _ => true
  | .ahx m => [Format.IZY, .ABSY].contains m.format
  | .shy _ => true
  | .shx _ => true
  | .tas _ => true

/-- The configuration is one R7 admits: `undocPopulated` is a subset of the 79 optional opcodes (R310),
`illegalLabelled` a subset of the unpopulated ones (R136), and every base cycle entry is at least 2, as every
`base_cycles` of the table is (R144). -/
def Config.wellFormed (cfg : Config) : Bool :=
  cfg.undocPopulated.all (optionalOpcodes.contains ·)
    && cfg.illegalLabelled.all (fun op => cfg.classOf op == .unpopulated)
    && cfg.baseCycles.all (fun e => decide (2 ≤ e.2))

end Sys2Proof
end

