-- ==== Sys2Proof/Decode.lean ====
section
/-! DEFINITION. The decoder: opcode byte and operand bytes to an instruction, by R84's map and R81's layouts;
then the encoder, written from the "Operands" and "Encoding" lines of the rules R150 to R332. -/

namespace Sys2Proof

/-! ### Decoding -/

/-- Why a list of bytes holds no instruction. Every opcode byte has a row (R87), so only missing bytes
stop the decoder. -/
inductive DecodeError where
  /-- There is no opcode byte. -/
  | noBytes
  /-- The opcode's operand bytes are missing. -/
  | truncated (op : Byte)
  deriving DecidableEq, Repr

/-- `length_bytes` of every row, by high nibble (row) and low nibble (column) (R80, R91). -/
def lengthRows : List (List Nat) :=
  [[2, 2, 1, 2, 2, 2, 2, 2, 1, 2, 1, 2, 3, 3, 3, 3],
   [2, 2, 1, 2, 2, 2, 2, 2, 1, 3, 1, 3, 3, 3, 3, 3],
   [3, 2, 1, 2, 2, 2, 2, 2, 1, 2, 1, 2, 3, 3, 3, 3],
   [2, 2, 1, 2, 2, 2, 2, 2, 1, 3, 1, 3, 3, 3, 3, 3],
   [1, 2, 1, 2, 2, 2, 2, 2, 1, 2, 1, 2, 3, 3, 3, 3],
   [2, 2, 1, 2, 2, 2, 2, 2, 1, 3, 1, 3, 3, 3, 3, 3],
   [1, 2, 1, 2, 2, 2, 2, 2, 1, 2, 1, 2, 3, 3, 3, 3],
   [2, 2, 1, 2, 2, 2, 2, 2, 1, 3, 1, 3, 3, 3, 3, 3],
   [2, 2, 2, 2, 2, 2, 2, 2, 1, 2, 1, 2, 3, 3, 3, 3],
   [2, 2, 1, 2, 2, 2, 2, 2, 1, 3, 1, 3, 3, 3, 3, 3],
   [2, 2, 2, 2, 2, 2, 2, 2, 1, 2, 1, 2, 3, 3, 3, 3],
   [2, 2, 1, 2, 2, 2, 2, 2, 1, 3, 1, 3, 3, 3, 3, 3],
   [2, 2, 2, 2, 2, 2, 2, 2, 1, 2, 1, 2, 3, 3, 3, 3],
   [2, 2, 1, 2, 2, 2, 2, 2, 1, 3, 1, 3, 3, 3, 3, 3],
   [2, 2, 2, 2, 2, 2, 2, 2, 1, 2, 1, 2, 3, 3, 3, 3],
   [2, 2, 1, 2, 2, 2, 2, 2, 1, 3, 1, 3, 3, 3, 3, 3]]

/-- The length of an instruction in bytes, told from its opcode byte alone (R80). -/
def lengthOf (op : Byte) : Nat :=
  (lengthRows.getD (op.toNat / 16) []).getD (op.toNat % 16) 1

/-- Row 0x of R84's map; the last arm is column F. -/
def decodeRow0 (lo : Nat) (b1 b2 : Byte) : Instr :=
  match lo with
  | 0x0 => .brk b1
  | 0x1 => .ora (.izx b1)
  | 0x2 => .kil 0x02
  | 0x3 => .slo (.izx b1)
  | 0x4 => .nopUndoc 0x04 (.zp b1)
  | 0x5 => .ora (.zp b1)
  | 0x6 => .asl (.zp b1)
  | 0x7 => .slo (.zp b1)
  | 0x8 => .php
  | 0x9 => .ora (.imm b1)
  | 0xA => .asl .acc
  | 0xB => .anc 0x0B b1
  | 0xC => .nopUndoc 0x0C (.abs (cat b2 b1))
  | 0xD => .ora (.abs (cat b2 b1))
  | 0xE => .asl (.abs (cat b2 b1))
  | _ => .slo (.abs (cat b2 b1))

/-- Row 1x of R84's map; the last arm is column F. -/
def decodeRow1 (lo : Nat) (b1 b2 : Byte) : Instr :=
  match lo with
  | 0x0 => .bpl b1
  | 0x1 => .ora (.izy b1)
  | 0x2 => .kil 0x12
  | 0x3 => .slo (.izy b1)
  | 0x4 => .nopUndoc 0x14 (.zpX b1)
  | 0x5 => .ora (.zpX b1)
  | 0x6 => .asl (.zpX b1)
  | 0x7 => .slo (.zpX b1)
  | 0x8 => .clc
  | 0x9 => .ora (.absY (cat b2 b1))
  | 0xA => .nopUndoc 0x1A .imp
  | 0xB => .slo (.absY (cat b2 b1))
  | 0xC => .nopUndoc 0x1C (.absX (cat b2 b1))
  | 0xD => .ora (.absX (cat b2 b1))
  | 0xE => .asl (.absX (cat b2 b1))
  | _ => .slo (.absX (cat b2 b1))

/-- Row 2x of R84's map; the last arm is column F. -/
def decodeRow2 (lo : Nat) (b1 b2 : Byte) : Instr :=
  match lo with
  | 0x0 => .jsr (cat b2 b1)
  | 0x1 => .and (.izx b1)
  | 0x2 => .kil 0x22
  | 0x3 => .rla (.izx b1)
  | 0x4 => .bit (.zp b1)
  | 0x5 => .and (.zp b1)
  | 0x6 => .rol (.zp b1)
  | 0x7 => .rla (.zp b1)
  | 0x8 => .plp
  | 0x9 => .and (.imm b1)
  | 0xA => .rol .acc
  | 0xB => .anc 0x2B b1
  | 0xC => .bit (.abs (cat b2 b1))
  | 0xD => .and (.abs (cat b2 b1))
  | 0xE => .rol (.abs (cat b2 b1))
  | _ => .rla (.abs (cat b2 b1))

/-- Row 3x of R84's map; the last arm is column F. -/
def decodeRow3 (lo : Nat) (b1 b2 : Byte) : Instr :=
  match lo with
  | 0x0 => .bmi b1
  | 0x1 => .and (.izy b1)
  | 0x2 => .kil 0x32
  | 0x3 => .rla (.izy b1)
  | 0x4 => .nopUndoc 0x34 (.zpX b1)
  | 0x5 => .and (.zpX b1)
  | 0x6 => .rol (.zpX b1)
  | 0x7 => .rla (.zpX b1)
  | 0x8 => .sec
  | 0x9 => .and (.absY (cat b2 b1))
  | 0xA => .nopUndoc 0x3A .imp
  | 0xB => .rla (.absY (cat b2 b1))
  | 0xC => .nopUndoc 0x3C (.absX (cat b2 b1))
  | 0xD => .and (.absX (cat b2 b1))
  | 0xE => .rol (.absX (cat b2 b1))
  | _ => .rla (.absX (cat b2 b1))

/-- Row 4x of R84's map; the last arm is column F. -/
def decodeRow4 (lo : Nat) (b1 b2 : Byte) : Instr :=
  match lo with
  | 0x0 => .rti
  | 0x1 => .eor (.izx b1)
  | 0x2 => .kil 0x42
  | 0x3 => .sre (.izx b1)
  | 0x4 => .nopUndoc 0x44 (.zp b1)
  | 0x5 => .eor (.zp b1)
  | 0x6 => .lsr (.zp b1)
  | 0x7 => .sre (.zp b1)
  | 0x8 => .pha
  | 0x9 => .eor (.imm b1)
  | 0xA => .lsr .acc
  | 0xB => .alr b1
  | 0xC => .jmp (.abs (cat b2 b1))
  | 0xD => .eor (.abs (cat b2 b1))
  | 0xE => .lsr (.abs (cat b2 b1))
  | _ => .sre (.abs (cat b2 b1))

/-- Row 5x of R84's map; the last arm is column F. -/
def decodeRow5 (lo : Nat) (b1 b2 : Byte) : Instr :=
  match lo with
  | 0x0 => .bvc b1
  | 0x1 => .eor (.izy b1)
  | 0x2 => .kil 0x52
  | 0x3 => .sre (.izy b1)
  | 0x4 => .nopUndoc 0x54 (.zpX b1)
  | 0x5 => .eor (.zpX b1)
  | 0x6 => .lsr (.zpX b1)
  | 0x7 => .sre (.zpX b1)
  | 0x8 => .cli
  | 0x9 => .eor (.absY (cat b2 b1))
  | 0xA => .nopUndoc 0x5A .imp
  | 0xB => .sre (.absY (cat b2 b1))
  | 0xC => .nopUndoc 0x5C (.absX (cat b2 b1))
  | 0xD => .eor (.absX (cat b2 b1))
  | 0xE => .lsr (.absX (cat b2 b1))
  | _ => .sre (.absX (cat b2 b1))

/-- Row 6x of R84's map; the last arm is column F. -/
def decodeRow6 (lo : Nat) (b1 b2 : Byte) : Instr :=
  match lo with
  | 0x0 => .rts
  | 0x1 => .adc (.izx b1)
  | 0x2 => .kil 0x62
  | 0x3 => .rra (.izx b1)
  | 0x4 => .nopUndoc 0x64 (.zp b1)
  | 0x5 => .adc (.zp b1)
  | 0x6 => .ror (.zp b1)
  | 0x7 => .rra (.zp b1)
  | 0x8 => .pla
  | 0x9 => .adc (.imm b1)
  | 0xA => .ror .acc
  | 0xB => .arr b1
  | 0xC => .jmp (.ind (cat b2 b1))
  | 0xD => .adc (.abs (cat b2 b1))
  | 0xE => .ror (.abs (cat b2 b1))
  | _ => .rra (.abs (cat b2 b1))

/-- Row 7x of R84's map; the last arm is column F. -/
def decodeRow7 (lo : Nat) (b1 b2 : Byte) : Instr :=
  match lo with
  | 0x0 => .bvs b1
  | 0x1 => .adc (.izy b1)
  | 0x2 => .kil 0x72
  | 0x3 => .rra (.izy b1)
  | 0x4 => .nopUndoc 0x74 (.zpX b1)
  | 0x5 => .adc (.zpX b1)
  | 0x6 => .ror (.zpX b1)
  | 0x7 => .rra (.zpX b1)
  | 0x8 => .sei
  | 0x9 => .adc (.absY (cat b2 b1))
  | 0xA => .nopUndoc 0x7A .imp
  | 0xB => .rra (.absY (cat b2 b1))
  | 0xC => .nopUndoc 0x7C (.absX (cat b2 b1))
  | 0xD => .adc (.absX (cat b2 b1))
  | 0xE => .ror (.absX (cat b2 b1))
  | _ => .rra (.absX (cat b2 b1))

/-- Row 8x of R84's map; the last arm is column F. -/
def decodeRow8 (lo : Nat) (b1 b2 : Byte) : Instr :=
  match lo with
  | 0x0 => .nopUndoc 0x80 (.imm b1)
  | 0x1 => .sta (.izx b1)
  | 0x2 => .nopUndoc 0x82 (.imm b1)
  | 0x3 => .sax (.izx b1)
  | 0x4 => .sty (.zp b1)
  | 0x5 => .sta (.zp b1)
  | 0x6 => .stx (.zp b1)
  | 0x7 => .sax (.zp b1)
  | 0x8 => .dey
  | 0x9 => .nopUndoc 0x89 (.imm b1)
  | 0xA => .txa
  | 0xB => .xaa b1
  | 0xC => .sty (.abs (cat b2 b1))
  | 0xD => .sta (.abs (cat b2 b1))
  | 0xE => .stx (.abs (cat b2 b1))
  | _ => .sax (.abs (cat b2 b1))

/-- Row 9x of R84's map; the last arm is column F. -/
def decodeRow9 (lo : Nat) (b1 b2 : Byte) : Instr :=
  match lo with
  | 0x0 => .bcc b1
  | 0x1 => .sta (.izy b1)
  | 0x2 => .kil 0x92
  | 0x3 => .ahx (.izy b1)
  | 0x4 => .sty (.zpX b1)
  | 0x5 => .sta (.zpX b1)
  | 0x6 => .stx (.zpY b1)
  | 0x7 => .sax (.zpY b1)
  | 0x8 => .tya
  | 0x9 => .sta (.absY (cat b2 b1))
  | 0xA => .txs
  | 0xB => .tas (cat b2 b1)
  | 0xC => .shy (cat b2 b1)
  | 0xD => .sta (.absX (cat b2 b1))
  | 0xE => .shx (cat b2 b1)
  | _ => .ahx (.absY (cat b2 b1))

/-- Row Ax of R84's map; the last arm is column F. -/
def decodeRowA (lo : Nat) (b1 b2 : Byte) : Instr :=
  match lo with
  | 0x0 => .ldy (.imm b1)
  | 0x1 => .lda (.izx b1)
  | 0x2 => .ldx (.imm b1)
  | 0x3 => .lax (.izx b1)
  | 0x4 => .ldy (.zp b1)
  | 0x5 => .lda (.zp b1)
  | 0x6 => .ldx (.zp b1)
  | 0x7 => .lax (.zp b1)
  | 0x8 => .tay
  | 0x9 => .lda (.imm b1)
  | 0xA => .tax
  | 0xB => .lxa b1
  | 0xC => .ldy (.abs (cat b2 b1))
  | 0xD => .lda (.abs (cat b2 b1))
  | 0xE => .ldx (.abs (cat b2 b1))
  | _ => .lax (.abs (cat b2 b1))

/-- Row Bx of R84's map; the last arm is column F. -/
def decodeRowB (lo : Nat) (b1 b2 : Byte) : Instr :=
  match lo with
  | 0x0 => .bcs b1
  | 0x1 => .lda (.izy b1)
  | 0x2 => .kil 0xB2
  | 0x3 => .lax (.izy b1)
  | 0x4 => .ldy (.zpX b1)
  | 0x5 => .lda (.zpX b1)
  | 0x6 => .ldx (.zpY b1)
  | 0x7 => .lax (.zpY b1)
  | 0x8 => .clv
  | 0x9 => .lda (.absY (cat b2 b1))
  | 0xA => .tsx
  | 0xB => .las (cat b2 b1)
  | 0xC => .ldy (.absX (cat b2 b1))
  | 0xD => .lda (.absX (cat b2 b1))
  | 0xE => .ldx (.absY (cat b2 b1))
  | _ => .lax (.absY (cat b2 b1))

/-- Row Cx of R84's map; the last arm is column F. -/
def decodeRowC (lo : Nat) (b1 b2 : Byte) : Instr :=
  match lo with
  | 0x0 => .cpy (.imm b1)
  | 0x1 => .cmp (.izx b1)
  | 0x2 => .nopUndoc 0xC2 (.imm b1)
  | 0x3 => .dcp (.izx b1)
  | 0x4 => .cpy (.zp b1)
  | 0x5 => .cmp (.zp b1)
  | 0x6 => .dec (.zp b1)
  | 0x7 => .dcp (.zp b1)
  | 0x8 => .iny
  | 0x9 => .cmp (.imm b1)
  | 0xA => .dex
  | 0xB => .axs b1
  | 0xC => .cpy (.abs (cat b2 b1))
  | 0xD => .cmp (.abs (cat b2 b1))
  | 0xE => .dec (.abs (cat b2 b1))
  | _ => .dcp (.abs (cat b2 b1))

/-- Row Dx of R84's map; the last arm is column F. -/
def decodeRowD (lo : Nat) (b1 b2 : Byte) : Instr :=
  match lo with
  | 0x0 => .bne b1
  | 0x1 => .cmp (.izy b1)
  | 0x2 => .kil 0xD2
  | 0x3 => .dcp (.izy b1)
  | 0x4 => .nopUndoc 0xD4 (.zpX b1)
  | 0x5 => .cmp (.zpX b1)
  | 0x6 => .dec (.zpX b1)
  | 0x7 => .dcp (.zpX b1)
  | 0x8 => .cld
  | 0x9 => .cmp (.absY (cat b2 b1))
  | 0xA => .nopUndoc 0xDA .imp
  | 0xB => .dcp (.absY (cat b2 b1))
  | 0xC => .nopUndoc 0xDC (.absX (cat b2 b1))
  | 0xD => .cmp (.absX (cat b2 b1))
  | 0xE => .dec (.absX (cat b2 b1))
  | _ => .dcp (.absX (cat b2 b1))

/-- Row Ex of R84's map; the last arm is column F. -/
def decodeRowE (lo : Nat) (b1 b2 : Byte) : Instr :=
  match lo with
  | 0x0 => .cpx (.imm b1)
  | 0x1 => .sbc (.izx b1)
  | 0x2 => .nopUndoc 0xE2 (.imm b1)
  | 0x3 => .isc (.izx b1)
  | 0x4 => .cpx (.zp b1)
  | 0x5 => .sbc (.zp b1)
  | 0x6 => .inc (.zp b1)
  | 0x7 => .isc (.zp b1)
  | 0x8 => .inx
  | 0x9 => .sbc (.imm b1)
  | 0xA => .nop
  | 0xB => .usbc b1
  | 0xC => .cpx (.abs (cat b2 b1))
  | 0xD => .sbc (.abs (cat b2 b1))
  | 0xE => .inc (.abs (cat b2 b1))
  | _ => .isc (.abs (cat b2 b1))

/-- Row Fx of R84's map; the last arm is column F. -/
def decodeRowF (lo : Nat) (b1 b2 : Byte) : Instr :=
  match lo with
  | 0x0 => .beq b1
  | 0x1 => .sbc (.izy b1)
  | 0x2 => .kil 0xF2
  | 0x3 => .isc (.izy b1)
  | 0x4 => .nopUndoc 0xF4 (.zpX b1)
  | 0x5 => .sbc (.zpX b1)
  | 0x6 => .inc (.zpX b1)
  | 0x7 => .isc (.zpX b1)
  | 0x8 => .sed
  | 0x9 => .sbc (.absY (cat b2 b1))
  | 0xA => .nopUndoc 0xFA .imp
  | 0xB => .isc (.absY (cat b2 b1))
  | 0xC => .nopUndoc 0xFC (.absX (cat b2 b1))
  | 0xD => .sbc (.absX (cat b2 b1))
  | 0xE => .inc (.absX (cat b2 b1))
  | _ => .isc (.absX (cat b2 b1))

/-- The instruction an opcode byte and its operand bytes stand for (R82, R83, R84). A one-byte instruction
uses neither operand byte, a two-byte one only `b1`. -/
def decodeOpcode (op b1 b2 : Byte) : Instr :=
  match op.toNat / 16 with
  | 0x0 => decodeRow0 (op.toNat % 16) b1 b2
  | 0x1 => decodeRow1 (op.toNat % 16) b1 b2
  | 0x2 => decodeRow2 (op.toNat % 16) b1 b2
  | 0x3 => decodeRow3 (op.toNat % 16) b1 b2
  | 0x4 => decodeRow4 (op.toNat % 16) b1 b2
  | 0x5 => decodeRow5 (op.toNat % 16) b1 b2
  | 0x6 => decodeRow6 (op.toNat % 16) b1 b2
  | 0x7 => decodeRow7 (op.toNat % 16) b1 b2
  | 0x8 => decodeRow8 (op.toNat % 16) b1 b2
  | 0x9 => decodeRow9 (op.toNat % 16) b1 b2
  | 0xA => decodeRowA (op.toNat % 16) b1 b2
  | 0xB => decodeRowB (op.toNat % 16) b1 b2
  | 0xC => decodeRowC (op.toNat % 16) b1 b2
  | 0xD => decodeRowD (op.toNat % 16) b1 b2
  | 0xE => decodeRowE (op.toNat % 16) b1 b2
  | _ => decodeRowF (op.toNat % 16) b1 b2

/-- Decodes the instruction at the head of a list of bytes, and gives the rest of the list (R80 to R84). -/
def decode : List Byte → Except DecodeError (Instr × List Byte)
  | [] => .error .noBytes
  | op :: rest =>
    match lengthOf op, rest with
    | 1, rest => .ok (decodeOpcode op 0 0, rest)
    | 2, b1 :: rest => .ok (decodeOpcode op b1 0, rest)
    | 3, b1 :: b2 :: rest => .ok (decodeOpcode op b1 b2, rest)
    | _, _ => .error (.truncated op)

/-- Byte `k` of an instruction whose `nbits` bits are `w`, byte 0 the least significant; the bits above
`nbits` are 0. -/
def tableByte (nbits w k : Nat) : Byte := BitVec.ofNat 8 (w % 2 ^ nbits / 256 ^ k)

/-- The bytes of a table word in the order they stand in memory, filled up to the longest instruction. -/
def tableBytes (nbits w : Nat) : List Byte :=
  [tableByte nbits w 0, tableByte nbits w 1, tableByte nbits w 2]

/-- What the decoder reads from an instruction whose bits are `w`, numbered as opcode_table.json numbers
them. -/
def decodeTableWord (nbits w : Nat) : Option Instr :=
  match decode (tableBytes nbits w) with
  | .ok (i, _) => some i
  | .error _ => none

/-! ### Encoding -/

/-- The mode of an instruction, with its operand (R91's `format`). -/
def Instr.mode : Instr → Mode
  | .lda m => m
  | .ldx m => m
  | .ldy m => m
  | .sta m => m
  | .stx m => m
  | .sty m => m
  | .tax => .imp
  | .tay => .imp
  | .txa => .imp
  | .tya => .imp
  | .tsx => .imp
  | .txs => .imp
  | .adc m => m
  | .sbc m => m
  | .and m => m
  | .ora m => m
  | .eor m => m
  | .cmp m => m
  | .cpx m => m
  | .cpy m => m
  | .bit m => m
  | .inc m => m
  | .dec m => m
  | .inx => .imp
  | .iny => .imp
  | .dex => .imp
  | .dey => .imp
  | .asl m => m
  | .lsr m => m
  | .rol m => m
  | .ror m => m
  | .bcc d => .rel d
  | .bcs d => .rel d
  | .beq d => .rel d
  | .bmi d => .rel d
  | .bne d => .rel d
  | .bpl d => .rel d
  | .bvc d => .rel d
  | .bvs d => .rel d
  | .jmp m => m
  | .jsr w => .abs w
  | .rts => .imp
  | .pha => .imp
  | .php => .imp
  | .pla => .imp
  | .plp => .imp
  | .clc => .imp
  | .cld => .imp
  | .cli => .imp
  | .clv => .imp
  | .sec => .imp
  | .sed => .imp
  | .sei => .imp
  | .nop => .imp
  | .brk _ => .imp
  | .rti => .imp
  | .kil _ => .imp
  | .slo m => m
  | .isc m => m
  | .rla m => m
  | .sre m => m
  | .rra m => m
  | .dcp m => m
  | .lax m => m
  | .sax m => m
  | .nopUndoc _ m => m
  | .usbc v => .imm v
  | .anc _ v => .imm v
  | .alr v => .imm v
  | .arr v => .imm v
  | .axs v => .imm v
  | .las w => .absY w
  | .xaa v => .imm v
  | .lxa v => .imm v
  | .ahx m => m
  | .shy w => .absX w
  | .shx w => .absY w
  | .tas w => .absY w

/-- The operand forms of an instruction and the opcode byte of each: the "Operands" and "Encoding" lines of
its rule (R150 to R332). -/
def Instr.forms : Instr → List (Format × Byte)
  | .lda _ => [(.IMM, 0xA9), (.ZP, 0xA5), (.ZPX, 0xB5), (.ABS, 0xAD), (.ABSX, 0xBD),
      (.ABSY, 0xB9), (.IZX, 0xA1), (.IZY, 0xB1)]
  | .ldx _ => [(.IMM, 0xA2), (.ZP, 0xA6), (.ZPY, 0xB6), (.ABS, 0xAE), (.ABSY, 0xBE)]
  | .ldy _ => [(.IMM, 0xA0), (.ZP, 0xA4), (.ZPX, 0xB4), (.ABS, 0xAC), (.ABSX, 0xBC)]
  | .sta _ => [(.ZP, 0x85), (.ZPX, 0x95), (.ABS, 0x8D), (.ABSX, 0x9D), (.ABSY, 0x99),
      (.IZX, 0x81), (.IZY, 0x91)]
  | .stx _ => [(.ZP, 0x86), (.ZPY, 0x96), (.ABS, 0x8E)]
  | .sty _ => [(.ZP, 0x84), (.ZPX, 0x94), (.ABS, 0x8C)]
  | .tax => [(.IMP, 0xAA)]
  | .tay => [(.IMP, 0xA8)]
  | .txa => [(.IMP, 0x8A)]
  | .tya => [(.IMP, 0x98)]
  | .tsx => [(.IMP, 0xBA)]
  | .txs => [(.IMP, 0x9A)]
  | .adc _ => [(.IMM, 0x69), (.ZP, 0x65), (.ZPX, 0x75), (.ABS, 0x6D), (.ABSX, 0x7D),
      (.ABSY, 0x79), (.IZX, 0x61), (.IZY, 0x71)]
  | .sbc _ => [(.IMM, 0xE9), (.ZP, 0xE5), (.ZPX, 0xF5), (.ABS, 0xED), (.ABSX, 0xFD),
      (.ABSY, 0xF9), (.IZX, 0xE1), (.IZY, 0xF1)]
  | .and _ => [(.IMM, 0x29), (.ZP, 0x25), (.ZPX, 0x35), (.ABS, 0x2D), (.ABSX, 0x3D),
      (.ABSY, 0x39), (.IZX, 0x21), (.IZY, 0x31)]
  | .ora _ => [(.IMM, 0x09), (.ZP, 0x05), (.ZPX, 0x15), (.ABS, 0x0D), (.ABSX, 0x1D),
      (.ABSY, 0x19), (.IZX, 0x01), (.IZY, 0x11)]
  | .eor _ => [(.IMM, 0x49), (.ZP, 0x45), (.ZPX, 0x55), (.ABS, 0x4D), (.ABSX, 0x5D),
      (.ABSY, 0x59), (.IZX, 0x41), (.IZY, 0x51)]
  | .cmp _ => [(.IMM, 0xC9), (.ZP, 0xC5), (.ZPX, 0xD5), (.ABS, 0xCD), (.ABSX, 0xDD),
      (.ABSY, 0xD9), (.IZX, 0xC1), (.IZY, 0xD1)]
  | .cpx _ => [(.IMM, 0xE0), (.ZP, 0xE4), (.ABS, 0xEC)]
  | .cpy _ => [(.IMM, 0xC0), (.ZP, 0xC4), (.ABS, 0xCC)]
  | .bit _ => [(.ZP, 0x24), (.ABS, 0x2C)]
  | .inc _ => [(.ZP, 0xE6), (.ZPX, 0xF6), (.ABS, 0xEE), (.ABSX, 0xFE)]
  | .dec _ => [(.ZP, 0xC6), (.ZPX, 0xD6), (.ABS, 0xCE), (.ABSX, 0xDE)]
  | .inx => [(.IMP, 0xE8)]
  | .iny => [(.IMP, 0xC8)]
  | .dex => [(.IMP, 0xCA)]
  | .dey => [(.IMP, 0x88)]
  | .asl _ => [(.ACC, 0x0A), (.ZP, 0x06), (.ZPX, 0x16), (.ABS, 0x0E), (.ABSX, 0x1E)]
  | .lsr _ => [(.ACC, 0x4A), (.ZP, 0x46), (.ZPX, 0x56), (.ABS, 0x4E), (.ABSX, 0x5E)]
  | .rol _ => [(.ACC, 0x2A), (.ZP, 0x26), (.ZPX, 0x36), (.ABS, 0x2E), (.ABSX, 0x3E)]
  | .ror _ => [(.ACC, 0x6A), (.ZP, 0x66), (.ZPX, 0x76), (.ABS, 0x6E), (.ABSX, 0x7E)]
  | .bcc _ => [(.REL, 0x90)]
  | .bcs _ => [(.REL, 0xB0)]
  | .beq _ => [(.REL, 0xF0)]
  | .bmi _ => [(.REL, 0x30)]
  | .bne _ => [(.REL, 0xD0)]
  | .bpl _ => [(.REL, 0x10)]
  | .bvc _ => [(.REL, 0x50)]
  | .bvs _ => [(.REL, 0x70)]
  | .jmp _ => [(.ABS, 0x4C), (.IND, 0x6C)]
  | .jsr _ => [(.ABS, 0x20)]
  | .rts => [(.IMP, 0x60)]
  | .pha => [(.IMP, 0x48)]
  | .php => [(.IMP, 0x08)]
  | .pla => [(.IMP, 0x68)]
  | .plp => [(.IMP, 0x28)]
  | .clc => [(.IMP, 0x18)]
  | .cld => [(.IMP, 0xD8)]
  | .cli => [(.IMP, 0x58)]
  | .clv => [(.IMP, 0xB8)]
  | .sec => [(.IMP, 0x38)]
  | .sed => [(.IMP, 0xF8)]
  | .sei => [(.IMP, 0x78)]
  | .nop => [(.IMP, 0xEA)]
  | .brk _ => [(.IMP, 0x00)]
  | .rti => [(.IMP, 0x40)]
  | .kil op => if kilOpcodes.contains op then [(.IMP, op)] else []
  | .slo _ => [(.ZP, 0x07), (.ZPX, 0x17), (.ABS, 0x0F), (.ABSX, 0x1F), (.ABSY, 0x1B),
      (.IZX, 0x03), (.IZY, 0x13)]
  | .isc _ => [(.ZP, 0xE7), (.ZPX, 0xF7), (.ABS, 0xEF), (.ABSX, 0xFF), (.ABSY, 0xFB),
      (.IZX, 0xE3), (.IZY, 0xF3)]
  | .rla _ => [(.ZP, 0x27), (.ZPX, 0x37), (.ABS, 0x2F), (.ABSX, 0x3F), (.ABSY, 0x3B),
      (.IZX, 0x23), (.IZY, 0x33)]
  | .sre _ => [(.ZP, 0x47), (.ZPX, 0x57), (.ABS, 0x4F), (.ABSX, 0x5F), (.ABSY, 0x5B),
      (.IZX, 0x43), (.IZY, 0x53)]
  | .rra _ => [(.ZP, 0x67), (.ZPX, 0x77), (.ABS, 0x6F), (.ABSX, 0x7F), (.ABSY, 0x7B),
      (.IZX, 0x63), (.IZY, 0x73)]
  | .dcp _ => [(.ZP, 0xC7), (.ZPX, 0xD7), (.ABS, 0xCF), (.ABSX, 0xDF), (.ABSY, 0xDB),
      (.IZX, 0xC3), (.IZY, 0xD3)]
  | .lax _ => [(.ZP, 0xA7), (.ZPY, 0xB7), (.ABS, 0xAF), (.ABSY, 0xBF), (.IZX, 0xA3), (.IZY, 0xB3)]
  | .sax _ => [(.ZP, 0x87), (.ZPY, 0x97), (.ABS, 0x8F), (.IZX, 0x83)]
  | .nopUndoc op m => if (undocNopOpcodes m.format).contains op then [(m.format, op)] else []
  | .usbc _ => [(.IMM, 0xEB)]
  | .anc op _ => if ancOpcodes.contains op then [(.IMM, op)] else []
  | .alr _ => [(.IMM, 0x4B)]
  | .arr _ => [(.IMM, 0x6B)]
  | .axs _ => [(.IMM, 0xCB)]
  | .las _ => [(.ABSY, 0xBB)]
  | .xaa _ => [(.IMM, 0x8B)]
  | .lxa _ => [(.IMM, 0xAB)]
  | .ahx _ => [(.IZY, 0x93), (.ABSY, 0x9F)]
  | .shy _ => [(.ABSX, 0x9C)]
  | .shx _ => [(.ABSY, 0x9E)]
  | .tas _ => [(.ABSY, 0x9B)]

/-- The opcode byte of an instruction, none where its form has no row. -/
def Instr.opcodeOf (i : Instr) : Option Byte := i.forms.lookup i.mode.format

/-- The operand bytes of a mode, low address byte first (R81). -/
def Mode.bytes : Mode → List Byte
  | .imp => []
  | .acc => []
  | .imm v => [v]
  | .zp a => [a]
  | .zpX a => [a]
  | .zpY a => [a]
  | .abs w => [loByte w, hiByte w]
  | .absX w => [loByte w, hiByte w]
  | .absY w => [loByte w, hiByte w]
  | .ind w => [loByte w, hiByte w]
  | .izx a => [a]
  | .izy a => [a]
  | .rel d => [d]

/-- The bytes after the opcode byte: BRK's padding byte, else those of the mode (R81). -/
def Instr.operandBytes : Instr → List Byte
  | .brk p => [p]
  | i => i.mode.bytes

/-- The bytes of a well-formed instruction (R81); none for a form without a row. -/
def encode (i : Instr) : List Byte :=
  match i.opcodeOf with
  | some op => op :: i.operandBytes
  | none => []

end Sys2Proof
end

