-- ==== Sys2Proof/Machine/Launch.lean ====
section
/-! DEFINITION. The parameters a machine is launched with, and the values the model names for the registers
the spec gives no reset value. -/

namespace Sys2Proof.Machine

/-- The parameters of R7 at the defaults the spec takes; the OPEN ones have no value (D2 to D5, D7, D20, D25). -/
def launchConfig : Config where
  undocPopulated := []
  illegalLabelled := Config.openIllegalLabelled
  baseCycles := []
  penaltyOnWrites := false
  zpPointerWrap := Config.openZpPointerWrap
  kilCycles := Config.openKilCycles
  bit5Value := false

/-- `memSize`, the launch premise of R52 (D22). -/
def launchMemSize : Nat := 65536

/-- A at `State.reset`. DESIGN CHOICE, unsafe: R40 gives no value. -/
def launchA : Byte := 0

/-- X at `State.reset`. DESIGN CHOICE, unsafe: R40 gives no value. -/
def launchX : Byte := 0

/-- Y at `State.reset`. DESIGN CHOICE, unsafe: R40 gives no value. -/
def launchY : Byte := 0

end Sys2Proof.Machine
end

