-- ==== Sys2Proof/Machine/State.lean ====
section
/-! DEFINITION. The state of the machine (R20), the reasons a step stops, and the state after reset (R40). -/

namespace Sys2Proof.Machine

/-- The failures of the core (R370), those of the model's parameters (R52), and the one way a host call
can fail to end. The first two and `busOutOfRange` are recorded in `State.fault` (R38). -/
inductive Fault where
  /-- Raised by the dispatch of an unpopulated opcode outside `illegalLabelled` (R135, R371). Safe: the spec
  names this failure. -/
  | unemulatedInstruction (op : Byte)
  /-- Raised by the dispatch of an unpopulated opcode in `illegalLabelled` (R136, R372). Safe: the spec names
  this failure. -/
  | illegalInstruction (op : Byte)
  /-- Raised by the host accessor `getFlag` for an index that names no flag, never by a step (R373). Safe:
  the spec names this failure. -/
  | invalidFlagIndex (i : Int)
  /-- Raised by an access at or beyond `memSize` through a default handler (R52). Safe: the machine stops. -/
  | busOutOfRange (a : Word)
  /-- Raised by the host call `execute` when as many steps as its budget have not reached its deadline: only
  under a base cycle table with an entry 0, which R144 rules out. Safe: the call stops. -/
  | budgetNotReached
  deriving DecidableEq, Repr

/-- Why an instruction has no meaning. -/
inductive Refusal where
  /-- Raised by an arm of `exec` that has no meaning yet. Safe: nothing runs. -/
  | notModelled (mnemonic : String)
  /-- Raised by every meaning for a term that is no row of opcode_table.json, which the decoder never answers
  (R82, R91). Safe: nothing runs. -/
  | noSuchForm
  deriving DecidableEq, Repr

/-- One bus event: a call of the read handler or of the write handler of an address (R56, R57). -/
inductive BusEvent where
  | read (a : Word) (v : Byte)
  | write (a : Word) (v : Byte)
  deriving DecidableEq, Repr

/-- The seven flags (R27). Bit 5 of the status byte has no storage (R30). -/
structure Flags where
  /-- Carry, bit 0. -/
  c : Bool
  /-- Zero, bit 1. -/
  z : Bool
  /-- Interrupt disable, bit 2. -/
  i : Bool
  /-- Decimal, bit 3. -/
  d : Bool
  /-- Break, bit 4: a stored flag (R32). -/
  b : Bool
  /-- Overflow, bit 6. -/
  v : Bool
  /-- Negative, bit 7. -/
  n : Bool
  deriving DecidableEq, Repr

/-- The backing store `mem` (R51): the cells that differ from what an unlisted address holds, by rising
address. -/
abbrev Memory := List Host.Cell

/-- The state record of R20. The last three fields are the model's own. -/
structure State where
  /-- Accumulator (R21). -/
  a : Byte
  /-- Index register X (R22). -/
  x : Byte
  /-- Index register Y (R22). -/
  y : Byte
  /-- Stack offset in page 1 (R25). -/
  sp : Byte
  /-- Program counter (R24). -/
  pc : Word
  /-- The seven flags (R27). -/
  p : Flags
  /-- The cycle counter, unbounded (R34). -/
  cycles : Nat
  /-- The run state: halted or running (R35). -/
  halted : Bool
  /-- The recorded failure (R38). Inside an instruction it also keeps the first access out of range (R52). -/
  fault : Option Fault
  /-- The backing store (R51). -/
  mem : Memory
  /-- The size of the backing store in bytes (R51, R52). -/
  memSize : Nat
  /-- The handler table: the addresses whose read or write handler is a custom one, `DEV`, by rising address;
  every other address has the default handlers (R53, R73). -/
  dev : List Nat
  /-- The bus events so far, the newest first (R56, R57, R72). The model's own record. -/
  bus : List BusEvent
  /-- How many free values have been drawn (R40, R72, R327 to R332). The model's own counter. -/
  draws : Nat
  /-- The named parameters of R7, which no step changes. -/
  cfg : Config
  deriving DecidableEq, Repr

/-- What an instruction or a step answers. -/
abbrev Result := Host.Outcome State Fault Refusal

/-- The machine right after `reset()` on a launched machine (R40, R416): nothing listed in memory, every
handler the default one, PC the word at 0xFFFC, and the two vector reads on the bus record (R410). -/
def State.reset : State where
  a := launchA
  x := launchX
  y := launchY
  sp := 0xFD
  pc := 0x0000
  p := { c := false, z := true, i := true, d := false, b := false, v := false, n := false }
  cycles := 0
  halted := false
  fault := none
  mem := []
  memSize := launchMemSize
  dev := []
  bus := [.read 0xFFFD 0x00, .read 0xFFFC 0x00]
  draws := 0
  cfg := launchConfig

end Sys2Proof.Machine
end

