-- ==== Sys2Proof/Machine/Memory.lean ====
section
/-! DEFINITION. The backing store as a canonical list of cells (R51, R54), and the sorted list of the
addresses with custom handlers (R53). -/

namespace Sys2Proof.Machine

/-- What an address holds that memory does not list. DESIGN CHOICE, unsafe: R51 takes every initial byte from
the image, and the model launches with an image of zeros. -/
def Memory.unlisted : Byte := 0x00

/-- The byte at an address. -/
def Memory.read (m : Memory) (a : Nat) : Byte :=
  match m with
  | [] => Memory.unlisted
  | (k, v) :: rest => if k = a then v else Memory.read rest a

/-- The cell for `v` at `a` in front of `m`, left out where `v` is what an unlisted address holds. -/
def Memory.put (a : Nat) (v : Byte) (m : Memory) : Memory :=
  if v = Memory.unlisted then m else (a, v) :: m

/-- Sets the byte at an address, keeping the canonical form. -/
def Memory.write (m : Memory) (a : Nat) (v : Byte) : Memory :=
  match m with
  | [] => Memory.put a v []
  | (k, w) :: rest =>
    if a < k then Memory.put a v ((k, w) :: rest)
    else if a = k then Memory.put a v rest
    else (k, w) :: Memory.write rest a v

/-- The canonical form from address `lo` on: rising addresses of the 16-bit space, no cell that holds what
an unlisted address holds. -/
def Memory.wfFrom (lo : Nat) (m : Memory) : Bool :=
  match m with
  | [] => true
  | (k, v) :: rest =>
    decide (lo ≤ k) && decide (k < 65536) && decide (v ≠ Memory.unlisted) && Memory.wfFrom (k + 1) rest

/-- Memory is in canonical form. -/
def Memory.wf (m : Memory) : Bool := Memory.wfFrom 0 m

/-- The cells of an image from address `at_` on; bytes beyond the 16-bit space have no address (R50). -/
def Memory.ofBytesFrom (at_ : Nat) : List Byte → Memory
  | [] => []
  | v :: rest =>
    if at_ < 65536 then Memory.put at_ v (Memory.ofBytesFrom (at_ + 1) rest) else []

/-- The backing store an image becomes (R51). -/
def Memory.ofBytes (image : List Byte) : Memory := Memory.ofBytesFrom 0 image

/-- Adds an address to the sorted list of custom-handler addresses. -/
def devInsert (a : Nat) : List Nat → List Nat
  | [] => [a]
  | k :: rest => if a < k then a :: k :: rest else if a = k then k :: rest else k :: devInsert a rest

/-- The list of custom-handler addresses is rising and inside the address space, from `lo` on. -/
def devWfFrom (lo : Nat) : List Nat → Bool
  | [] => true
  | k :: rest => decide (lo ≤ k) && decide (k < 65536) && devWfFrom (k + 1) rest

/-- The list of custom-handler addresses is in canonical form. -/
def devWf (d : List Nat) : Bool := devWfFrom 0 d

end Sys2Proof.Machine
end

