-- ==== Sys2Proof/Machine/Flags.lean ====
section
/-! DEFINITION. The status byte (R28, R29) and every flag computation: the arithmetic cores (R180 to R182)
and the shift cores (R230). -/

namespace Sys2Proof.Machine

/-! ### The status byte -/

/-- `StatusByte()` for the bit 5 of the configuration (R28). -/
def Flags.toByte (bit5 : Bool) (p : Flags) : Byte :=
  BitVec.ofNat 8
    (p.n.toNat * 0x80 + p.v.toNat * 0x40 + bit5.toNat * 0x20 + p.b.toNat * 0x10 + p.d.toNat * 0x08
      + p.i.toNat * 0x04 + p.z.toNat * 0x02 + p.c.toNat * 0x01)

/-- The seven flags that `SetStatus(b)` writes; bit 5 is ignored (R29). -/
def Flags.ofByte (b : Byte) : Flags where
  c := b.getLsbD 0
  z := b.getLsbD 1
  i := b.getLsbD 2
  d := b.getLsbD 3
  b := b.getLsbD 4
  v := b.getLsbD 6
  n := b.getLsbD 7

/-- `SetNZ(v)` (R11). -/
def Flags.setNZ (v : Byte) (p : Flags) : Flags := { p with n := v.getLsbD 7, z := decide (v = 0) }

/-- `StatusByte()` of a state (R28). -/
def State.statusByte (s : State) : Byte := s.p.toByte s.cfg.bit5Value

/-- `SetStatus(b)` (R29). -/
def State.setStatus (b : Byte) (s : State) : State := { s with p := Flags.ofByte b }

/-- `SetNZ(v)` on a state (R11). -/
def State.setNZ (v : Byte) (s : State) : State := { s with p := s.p.setNZ v }

/-- `A <- v; SetNZ(v)`. -/
def State.loadA (v : Byte) (s : State) : State := { s with a := v, p := s.p.setNZ v }

/-- `X <- v; SetNZ(v)`. -/
def State.loadX (v : Byte) (s : State) : State := { s with x := v, p := s.p.setNZ v }

/-- `Y <- v; SetNZ(v)`. -/
def State.loadY (v : Byte) (s : State) : State := { s with y := v, p := s.p.setNZ v }

/-! ### Arithmetic cores -/

/-- The exact sum `A + m + C`, an integer 0 to 511 (R180). -/
def addSum (a m : Byte) (c : Bool) : Nat := a.toNat + m.toNat + c.toNat

/-- The sum's low byte (R180). -/
def addResult (a m : Byte) (c : Bool) : Byte := BitVec.ofNat 8 (addSum a m c)

/-- The exact difference `A - m - (1 - C)`, an integer -256 to 255 (R181). -/
def subDiff (a m : Byte) (c : Bool) : Int := a.toNat - m.toNat - (1 - c.toNat)

/-- The difference modulo 256 (R181). -/
def subResult (a m : Byte) (c : Bool) : Byte := BitVec.ofInt 8 (subDiff a m c)

/-- The flags `AddCore(m)` leaves (R180). D is not read. -/
def Flags.afterAdd (a m : Byte) (p : Flags) : Flags :=
  let r := addResult a m p.c
  { p.setNZ r with
    c := decide (256 ≤ addSum a m p.c)
    v := (~~~(a ^^^ m) &&& (a ^^^ r)).getLsbD 7 }

/-- The flags `SubCore(m)` leaves (R181). D is not read. -/
def Flags.afterSub (a m : Byte) (p : Flags) : Flags :=
  let r := subResult a m p.c
  { p.setNZ r with
    c := decide (0 ≤ subDiff a m p.c)
    v := ((a ^^^ m) &&& (a ^^^ r)).getLsbD 7 }

/-- The flags `Compare(reg, m)` leaves: the difference without a borrow in (R182). -/
def Flags.afterCompare (reg m : Byte) (p : Flags) : Flags :=
  { p.setNZ (subResult reg m true) with c := decide (0 ≤ subDiff reg m true) }

/-- The flags BIT leaves: Z from the AND, N and V from the operand (R191). -/
def Flags.afterBit (a m : Byte) (p : Flags) : Flags :=
  { p with z := decide (a &&& m = 0), n := m.getLsbD 7, v := m.getLsbD 6 }

/-- `AddCore(m)` (R180). -/
def State.addCore (m : Byte) (s : State) : State :=
  { s with a := addResult s.a m s.p.c, p := s.p.afterAdd s.a m }

/-- `SubCore(m)` (R181). -/
def State.subCore (m : Byte) (s : State) : State :=
  { s with a := subResult s.a m s.p.c, p := s.p.afterSub s.a m }

/-- `Compare(reg, m)` (R182). -/
def State.compare (reg m : Byte) (s : State) : State := { s with p := s.p.afterCompare reg m }

/-! ### Shift cores: the result and the flags they leave -/

/-- A core of a read-modify-write: the new value and the flags from the old ones. -/
abbrev ByteCore := Byte → Flags → Byte × Flags

/-- `ShiftASL` (R230). -/
def shiftASL : ByteCore := fun v p =>
  let r := v <<< 1
  (r, { p.setNZ r with c := v.getLsbD 7 })

/-- `ShiftLSR` (R230). -/
def shiftLSR : ByteCore := fun v p =>
  let r := v >>> 1
  (r, { p.setNZ r with c := v.getLsbD 0 })

/-- `ShiftROL` (R230). -/
def shiftROL : ByteCore := fun v p =>
  let r := (v <<< 1) ||| (if p.c then 0x01 else 0x00)
  (r, { p.setNZ r with c := v.getLsbD 7 })

/-- `ShiftROR` (R230). -/
def shiftROR : ByteCore := fun v p =>
  let r := (v >>> 1) ||| (if p.c then 0x80 else 0x00)
  (r, { p.setNZ r with c := v.getLsbD 0 })

/-- INC's core: `(old + 1) mod 256; SetNZ` (R192). -/
def incCore : ByteCore := fun v p => (v + 1, p.setNZ (v + 1))

/-- DEC's core: `(old - 1) mod 256; SetNZ` (R193). -/
def decCore : ByteCore := fun v p => (v - 1, p.setNZ (v - 1))

/-- ISC's increment, which leaves the flags to the subtraction (R313). -/
def incOnly : ByteCore := fun v p => (v + 1, p)

/-- DCP's decrement, which leaves the flags to the compare (R317). -/
def decOnly : ByteCore := fun v p => (v - 1, p)

end Sys2Proof.Machine
end

