-- ==== Sys2Proof/Machine/Ops.lean ====
section
/-! DEFINITION. The named operations over memory and registers: the bus (R56 to R60), fetching (R11), the
stack (R26), taking an interrupt and returning from one (R375, R293), failures (R374), and what surrounds every
meaning: the check of its row, the charge of its cycles, and the end of the instruction (R131, R137). -/

namespace Sys2Proof.Machine

/-! ### The bus -/

/-- Whether an address has a custom handler, `a ∈ DEV` (R73). -/
def State.inDev (a : Word) (s : State) : Bool := s.dev.contains a.toNat

/-- Whether an access to an address reaches a cell or a custom handler (R52). -/
def State.reaches (a : Word) (s : State) : Bool := s.inDev a || decide (a.toNat < s.memSize)

/-- The backing store's byte at an address, with no bus event. -/
def State.peek (a : Word) (s : State) : Byte := s.mem.read a.toNat

/-- Keeps the first access beyond `memSize` (R52). -/
def State.outOfRange (a : Word) (s : State) : State :=
  { s with fault := some (s.fault.getD (.busOutOfRange a)) }

/-- `MemRead(a, 1)`: one read event; a custom handler answers a free draw, the default one the cell (R56, R72). -/
def State.busRead (a : Word) (s : State) : Byte × State :=
  if s.inDev a then
    let v := Config.freeByte s.draws
    (v, { s with draws := s.draws + 1, bus := .read a v :: s.bus })
  else if a.toNat < s.memSize then
    (s.peek a, { s with bus := .read a (s.peek a) :: s.bus })
  else
    (s.peek a, s.outOfRange a)

/-- `MemWrite(a, 1, v)`: one write event; the default handler sets the cell, a custom one leaves every cell
(R57, R72). -/
def State.busWrite (a : Word) (v : Byte) (s : State) : State :=
  if s.inDev a then
    { s with bus := .write a v :: s.bus }
  else if a.toNat < s.memSize then
    { s with mem := s.mem.write a.toNat v, bus := .write a v :: s.bus }
  else
    s.outOfRange a

/-- `MemRead(a, 2)`: the low byte, then the high byte at `(a + 1) mod 65536` (R58, R60). -/
def State.readWord (a : Word) (s : State) : Word × State :=
  let lo := s.busRead a
  let hi := lo.2.busRead (a + 1)
  (cat hi.1 lo.1, hi.2)

/-- `writeWord(a, w)` of the bus contract (R59); no instruction uses it. -/
def State.writeWord (a : Word) (w : Word) (s : State) : State :=
  (s.busWrite a (loByte w)).busWrite (a + 1) (hiByte w)

/-! ### Fetch and stack -/

/-- `Fetch8()` (R11). -/
def State.fetch8 (s : State) : Byte × State :=
  let r := s.busRead s.pc
  (r.1, { r.2 with pc := s.pc + 1 })

/-- The throwaway read of the implied instructions that R112 lists: at PC, the value discarded. -/
def State.throwaway (s : State) : State := (s.busRead s.pc).2

/-- `Push(v)` (R11, R26). -/
def State.push (v : Byte) (s : State) : State :=
  let t := s.busWrite (stackAddr s.sp) v
  { t with sp := s.sp - 1 }

/-- `Pop()` (R11, R26). -/
def State.pop (s : State) : Byte × State :=
  let t : State := { s with sp := s.sp + 1 }
  t.busRead (stackAddr t.sp)

/-- Two pushes, the high byte first: "pushes PC (high then low, per the stack write order)" (R375, R260). -/
def State.pushWord (w : Word) (s : State) : State := (s.push (hiByte w)).push (loByte w)

/-- Two pops, the low byte first (R261, R293). -/
def State.popWord (s : State) : Word × State :=
  let lo := s.pop
  let hi := lo.2.pop
  (cat hi.1 lo.1, hi.2)

/-! ### Interrupts -/

/-- The NMI vector (R65). -/
def nmiVector : Word := 0xFFFA

/-- The reset vector (R65). -/
def resetVector : Word := 0xFFFC

/-- The vector of IRQ and BRK (R65). -/
def irqVector : Word := 0xFFFE

/-- `InterruptEntry(vector, p)`: push PC high, PC low and the status byte `p`, set I, load PC from the vector
(R375). -/
def State.interruptEntry (vector : Word) (p : Byte) (s : State) : State :=
  let s1 := (s.pushWord s.pc).push p
  let s2 : State := { s1 with p := { s1.p with i := true } }
  let r := s2.readWord vector
  { r.2 with pc := r.1 }

/-- The return from an interrupt: pop the status byte, all seven flags verbatim, then PC (R293, R382). -/
def State.returnFromInterrupt (s : State) : State :=
  let st := s.pop
  let r := (st.2.setStatus st.1).popWord
  { r.2 with pc := r.1 }

/-! ### Failures and the end of an instruction -/

/-- The failure an unpopulated opcode raises (R131, R136). -/
def unpopulatedFailure (cfg : Config) (op : Byte) : Fault :=
  if cfg.illegalLabelled.contains op then .illegalInstruction op else .unemulatedInstruction op

/-- Raises the failure of an unpopulated opcode: it is recorded and nothing else changes (R135, R374). -/
def raiseUnpopulated (op : Byte) (s : State) : Result :=
  .next { s with fault := some (unpopulatedFailure s.cfg op) }

/-- Ends an instruction: an access out of range stops the machine, else the state is the next one (R52). -/
def commit (s : State) : Result :=
  match s.fault with
  | some (.busOutOfRange a) => .fault (.busOutOfRange a)
  | _ => .next s

/-- `AddCycles(baseCycles(op) + extra)`, then the end of the instruction (R131, R137). -/
def complete (op : Byte) (extra : Nat) (s : State) : Result :=
  commit { s with cycles := s.cycles + (s.cfg.baseCyclesOf op + extra) }

/-- Runs `f` with the opcode byte of the instruction's row: a form without a row is refused (R82), an opcode
outside the populated set raises its failure (R131, R310). -/
def withRow (i : Instr) (s : State) (f : Byte → Result) : Result :=
  match i.opcodeOf with
  | none => .refused .noSuchForm
  | some op => if s.cfg.populates op then f op else raiseUnpopulated op s

/-! ### Free values -/

/-- Draws a byte (R327, R328). -/
def State.drawByte (s : State) : Byte × State :=
  (Config.freeByte s.draws, { s with draws := s.draws + 1 })

/-- Draws an address (R329 to R332). -/
def State.drawWord (s : State) : Word × State :=
  (Config.freeWord s.draws, { s with draws := s.draws + 1 })

end Sys2Proof.Machine
end

