-- ==== Sys2Proof/Machine/Operands.lean ====
section
/-! DEFINITION. The addressing-mode resolvers (R100 to R120) and the access protocols of the instruction
classes (R115 to R118). The operand bytes have been fetched when a resolver runs: PC is past them (R24). -/

namespace Sys2Proof.Machine

/-- What a resolver answers (R100): the effective address, the address before indexing, and whether indexing
crossed a page. -/
structure Resolved where
  ea : Word
  base : Word
  crossed : Bool
  deriving DecidableEq, Repr

/-- An address that is not indexed over a page. -/
def Resolved.plain (ea : Word) : Resolved := ⟨ea, ea, false⟩

/-- The address `base + index`, with the page check (R106, R107, R110). -/
def Resolved.indexed (base : Word) (index : Byte) : Resolved :=
  ⟨base + zext16 index, base, pageCross base (base + zext16 index)⟩

/-- `ZpNext(p)`: where the high byte of a zero-page pointer stands (R109). Only at 0xFF does it depend on
`zpPointerWrap` (R119). -/
def zpNext (wrap : Bool) (p : Byte) : Word :=
  if p = 0xFF then (if wrap then 0x0000 else 0x0100) else zext16 p + 1

/-- The word a zero-page pointer names (R109, R110). -/
def State.zpPointer (p : Byte) (s : State) : Word × State :=
  let lo := s.busRead (zext16 p)
  let hi := lo.2.busRead (zpNext s.cfg.zpPointerWrap p)
  (cat hi.1 lo.1, hi.2)

/-- The word JMP's pointer names: the high byte comes from the same page (R108). -/
def State.jmpPointer (ptr : Word) (s : State) : Word × State :=
  let lo := s.busRead ptr
  let hi := lo.2.busRead (cat (hiByte ptr) (loByte ptr + 1))
  (cat hi.1 lo.1, hi.2)

/-- The resolvers (R102 to R110, R113). Implied, accumulator and immediate instructions have no effective
address (R100): those arms keep the function total and no meaning reads them. -/
def State.resolve (m : Mode) (s : State) : Resolved × State :=
  match m with
  | .imp => (Resolved.plain s.pc, s)
  | .acc => (Resolved.plain s.pc, s)
  | .imm _ => (Resolved.plain s.pc, s)
  | .zp a => (Resolved.plain (zext16 a), s)
  | .zpX a => (Resolved.plain (zext16 (a + s.x)), s)
  | .zpY a => (Resolved.plain (zext16 (a + s.y)), s)
  | .abs w => (Resolved.plain w, s)
  | .absX w => (Resolved.indexed w s.x, s)
  | .absY w => (Resolved.indexed w s.y, s)
  | .ind w => (Resolved.plain (s.jmpPointer w).1, (s.jmpPointer w).2)
  | .izx a => (Resolved.plain (s.zpPointer (a + s.x)).1, (s.zpPointer (a + s.x)).2)
  | .izy a => (Resolved.indexed (s.zpPointer a).1 s.y, (s.zpPointer a).2)
  | .rel d => (⟨s.pc + sext16 d, s.pc, pageCross s.pc (s.pc + sext16 d)⟩, s)

/-- An operand, or the result of a read-modify-write: its value, whether its address crossed a page, and the
state after the bus events. -/
structure Operand where
  value : Byte
  crossed : Bool
  st : State
  deriving DecidableEq, Repr

/-- `operand` of a read-class instruction: the immediate byte, or one read of the effective address (R101,
R116). The accumulator is an operand without a bus event (R111), and so are the modes without one. -/
def State.readOperand (m : Mode) (s : State) : Operand :=
  match m with
  | .imp => ⟨s.a, false, s⟩
  | .acc => ⟨s.a, false, s⟩
  | .imm v => ⟨v, false, s⟩
  | m =>
    let r := s.resolve m
    let v := r.2.busRead r.1.ea
    ⟨v.1, r.1.crossed, v.2⟩

/-- The read-modify-write protocol: read, write the old value, write the new one (R117); on the accumulator,
no bus event (R111). The value is the new one and the flags are those the core leaves. -/
def State.rmw (m : Mode) (core : ByteCore) (s : State) : Operand :=
  match m with
  | .acc => ⟨(core s.a s.p).1, false, { s with a := (core s.a s.p).1, p := (core s.a s.p).2 }⟩
  | m =>
    let r := s.resolve m
    let old := r.2.busRead r.1.ea
    let s1 := old.2.busWrite r.1.ea old.1
    let new := core old.1 s1.p
    let s2 := s1.busWrite r.1.ea new.1
    ⟨new.1, r.1.crossed, { s2 with p := new.2 }⟩

/-- The page-cross cycle of a read-class instruction (R115). -/
def readPenalty (crossed : Bool) : Nat := if crossed then 1 else 0

/-- The page-cross cycle of a store or a read-modify-write (R115). -/
def writePenalty (cfg : Config) (crossed : Bool) : Nat :=
  if crossed && cfg.penaltyOnWrites then 1 else 0

/-- A read-class instruction: its operand, `f` of it, and the page-cross cycle (R116, R115). -/
def readClass (i : Instr) (m : Mode) (f : Byte → State → State) (s : State) : Result :=
  withRow i s fun op =>
    let o := s.readOperand m
    complete op (readPenalty o.crossed) (f o.value o.st)

/-- A store: one write of `v` to the effective address, and no read of it (R118, R115). -/
def storeClass (i : Instr) (m : Mode) (v : State → Byte) (s : State) : Result :=
  withRow i s fun op =>
    let r := s.resolve m
    complete op (writePenalty s.cfg r.1.crossed) (r.2.busWrite r.1.ea (v s))

/-- A read-modify-write, then `f` of the new value (R117, R115). -/
def rmwClass (i : Instr) (m : Mode) (core : ByteCore) (f : Byte → State → State) (s : State) : Result :=
  withRow i s fun op =>
    let o := s.rmw m core
    complete op (writePenalty s.cfg o.crossed) (f o.value o.st)

/-- An implied instruction: `f` of the state, at the base cost (R112). -/
def impliedClass (i : Instr) (f : State → State) (s : State) : Result :=
  withRow i s fun op => complete op 0 (f s)

/-- `Branch(cond)`: to the target if the condition holds, at one cycle more, two across a page (R250). -/
def branchClass (i : Instr) (cond : Bool) (d : Byte) (s : State) : Result :=
  withRow i s fun op =>
    let r := s.resolve (.rel d)
    if cond then complete op (if r.1.crossed then 2 else 1) { r.2 with pc := r.1.ea }
    else complete op 0 r.2

end Sys2Proof.Machine
end

