-- ==== Sys2Proof/Machine/Arith.lean ====
section
/-! DEFINITION. Arithmetic, logic, compare, increment and decrement (R183 to R197). -/

namespace Sys2Proof.Machine

/-- ADC: `AddCore(operand)` (R183). -/
def execAdc (m : Mode) (s : State) : Result :=
  readClass (.adc m) m (fun v t => t.addCore v) s

/-- SBC: `SubCore(operand)` (R184). -/
def execSbc (m : Mode) (s : State) : Result :=
  readClass (.sbc m) m (fun v t => t.subCore v) s

/-- AND: `A <- A & operand; SetNZ` (R185). -/
def execAnd (m : Mode) (s : State) : Result :=
  readClass (.and m) m (fun v t => t.loadA (t.a &&& v)) s

/-- ORA: `A <- A | operand; SetNZ` (R186). -/
def execOra (m : Mode) (s : State) : Result :=
  readClass (.ora m) m (fun v t => t.loadA (t.a ||| v)) s

/-- EOR: `A <- A ^ operand; SetNZ` (R187). -/
def execEor (m : Mode) (s : State) : Result :=
  readClass (.eor m) m (fun v t => t.loadA (t.a ^^^ v)) s

/-- CMP: `Compare(A, operand)` (R188). -/
def execCmp (m : Mode) (s : State) : Result :=
  readClass (.cmp m) m (fun v t => t.compare t.a v) s

/-- CPX: `Compare(X, operand)` (R189). -/
def execCpx (m : Mode) (s : State) : Result :=
  readClass (.cpx m) m (fun v t => t.compare t.x v) s

/-- CPY: `Compare(Y, operand)` (R190). -/
def execCpy (m : Mode) (s : State) : Result :=
  readClass (.cpy m) m (fun v t => t.compare t.y v) s

/-- BIT: Z from `A & operand`, N and V from the operand (R191). -/
def execBit (m : Mode) (s : State) : Result :=
  readClass (.bit m) m (fun v t => { t with p := t.p.afterBit t.a v }) s

/-- INC: read-modify-write with `old + 1`, then `SetNZ(new)` (R192). -/
def execInc (m : Mode) (s : State) : Result :=
  rmwClass (.inc m) m incCore (fun _ t => t) s

/-- DEC: read-modify-write with `old - 1`, then `SetNZ(new)` (R193). -/
def execDec (m : Mode) (s : State) : Result :=
  rmwClass (.dec m) m decCore (fun _ t => t) s

/-- INX: `X <- (X + 1) mod 256; SetNZ` (R194). -/
def execInx (s : State) : Result :=
  impliedClass .inx (fun t => t.loadX (t.x + 1)) s

/-- INY: `Y <- (Y + 1) mod 256; SetNZ` (R195). -/
def execIny (s : State) : Result :=
  impliedClass .iny (fun t => t.loadY (t.y + 1)) s

/-- DEX: `X <- (X - 1) mod 256; SetNZ` (R196). -/
def execDex (s : State) : Result :=
  impliedClass .dex (fun t => t.loadX (t.x - 1)) s

/-- DEY: `Y <- (Y - 1) mod 256; SetNZ` (R197). -/
def execDey (s : State) : Result :=
  impliedClass .dey (fun t => t.loadY (t.y - 1)) s

end Sys2Proof.Machine
end

