-- ==== Sys2Proof/Machine/Control.lean ====
section
/-! DEFINITION. Branches, jumps, subroutine call and return (R250 to R261). -/

namespace Sys2Proof.Machine

/-- BCC: `Branch(C == 0)` (R251). -/
def execBcc (d : Byte) (s : State) : Result :=
  branchClass (.bcc d) (!s.p.c) d s

/-- BCS: `Branch(C == 1)` (R252). -/
def execBcs (d : Byte) (s : State) : Result :=
  branchClass (.bcs d) s.p.c d s

/-- BEQ: `Branch(Z == 1)` (R253). -/
def execBeq (d : Byte) (s : State) : Result :=
  branchClass (.beq d) s.p.z d s

/-- BMI: `Branch(N == 1)` (R254). -/
def execBmi (d : Byte) (s : State) : Result :=
  branchClass (.bmi d) s.p.n d s

/-- BNE: `Branch(Z == 0)` (R255). -/
def execBne (d : Byte) (s : State) : Result :=
  branchClass (.bne d) (!s.p.z) d s

/-- BPL: `Branch(N == 0)` (R256). -/
def execBpl (d : Byte) (s : State) : Result :=
  branchClass (.bpl d) (!s.p.n) d s

/-- BVC: `Branch(V == 0)` (R257). -/
def execBvc (d : Byte) (s : State) : Result :=
  branchClass (.bvc d) (!s.p.v) d s

/-- BVS: `Branch(V == 1)` (R258). -/
def execBvs (d : Byte) (s : State) : Result :=
  branchClass (.bvs d) s.p.v d s

/-- JMP: PC takes the effective address, of the absolute mode or of the indirect one with its page wrap
(R259, R105, R108). -/
def execJmp (m : Mode) (s : State) : Result :=
  withRow (.jmp m) s fun op =>
    let r := s.resolve m
    complete op 0 { r.2 with pc := r.1.ea }

/-- JSR: pushes the address of its last byte, high byte first, and jumps (R260). -/
def execJsr (target : Word) (s : State) : Result :=
  impliedClass (.jsr target) (fun t => { t.pushWord (t.pc - 1) with pc := target }) s

/-- RTS: a throwaway read, then PC takes the popped word plus 1 (R261). -/
def execRts (s : State) : Result :=
  impliedClass .rts (fun t =>
    let r := t.throwaway.popWord
    { r.2 with pc := r.1 + 1 }) s

end Sys2Proof.Machine
end

