-- ==== Sys2Proof/Machine/LoadStore.lean ====
section
/-! DEFINITION. Loads, stores and register transfers (R150 to R161). -/

namespace Sys2Proof.Machine

/-- LDA: `A <- operand; SetNZ` (R150). -/
def execLda (m : Mode) (s : State) : Result :=
  readClass (.lda m) m (fun v t => t.loadA v) s

/-- LDX: `X <- operand; SetNZ` (R151). -/
def execLdx (m : Mode) (s : State) : Result :=
  readClass (.ldx m) m (fun v t => t.loadX v) s

/-- LDY: `Y <- operand; SetNZ` (R152). -/
def execLdy (m : Mode) (s : State) : Result :=
  readClass (.ldy m) m (fun v t => t.loadY v) s

/-- STA: `MemWrite(EA, 1, A)` (R153). -/
def execSta (m : Mode) (s : State) : Result :=
  storeClass (.sta m) m (fun t => t.a) s

/-- STX: `MemWrite(EA, 1, X)` (R154). -/
def execStx (m : Mode) (s : State) : Result :=
  storeClass (.stx m) m (fun t => t.x) s

/-- STY: `MemWrite(EA, 1, Y)` (R155). -/
def execSty (m : Mode) (s : State) : Result :=
  storeClass (.sty m) m (fun t => t.y) s

/-- TAX: `X <- A; SetNZ` (R156). -/
def execTax (s : State) : Result :=
  impliedClass .tax (fun t => t.loadX t.a) s

/-- TAY: `Y <- A; SetNZ` (R157). -/
def execTay (s : State) : Result :=
  impliedClass .tay (fun t => t.loadY t.a) s

/-- TXA: `A <- X; SetNZ` (R158). -/
def execTxa (s : State) : Result :=
  impliedClass .txa (fun t => t.loadA t.x) s

/-- TYA: `A <- Y; SetNZ` (R159). -/
def execTya (s : State) : Result :=
  impliedClass .tya (fun t => t.loadA t.y) s

/-- TSX: `X <- SP; SetNZ` (R160). -/
def execTsx (s : State) : Result :=
  impliedClass .tsx (fun t => t.loadX t.sp) s

/-- TXS: `SP <- X`, no flag (R161). -/
def execTxs (s : State) : Result :=
  impliedClass .txs (fun t => { t with sp := t.x }) s

end Sys2Proof.Machine
end

