-- ==== Sys2Proof/Machine/Shift.lean ====
section
/-! DEFINITION. Shifts and rotates (R231 to R234). -/

namespace Sys2Proof.Machine

/-- ASL: `ShiftASL` on A, or by the read-modify-write protocol on memory (R231). -/
def execAsl (m : Mode) (s : State) : Result :=
  rmwClass (.asl m) m shiftASL (fun _ t => t) s

/-- LSR: `ShiftLSR` on A, or by the read-modify-write protocol on memory (R232). -/
def execLsr (m : Mode) (s : State) : Result :=
  rmwClass (.lsr m) m shiftLSR (fun _ t => t) s

/-- ROL: `ShiftROL` on A, or by the read-modify-write protocol on memory (R233). -/
def execRol (m : Mode) (s : State) : Result :=
  rmwClass (.rol m) m shiftROL (fun _ t => t) s

/-- ROR: `ShiftROR` on A, or by the read-modify-write protocol on memory (R234). -/
def execRor (m : Mode) (s : State) : Result :=
  rmwClass (.ror m) m shiftROR (fun _ t => t) s

end Sys2Proof.Machine
end

