-- ==== Sys2Proof/Machine/System.lean ====
section
/-! DEFINITION. Stack, flag, no-op and system instructions (R280 to R293). -/

namespace Sys2Proof.Machine

/-- PHA: a throwaway read, then `Push(A)` (R280). -/
def execPha (s : State) : Result :=
  impliedClass .pha (fun t => t.throwaway.push t.a) s

/-- PHP: a throwaway read, then `Push(StatusByte() | 0x10)`; the stored B stays (R281). -/
def execPhp (s : State) : Result :=
  impliedClass .php (fun t => t.throwaway.push (t.statusByte ||| 0x10)) s

/-- PLA: a throwaway read, then `A <- Pop(); SetNZ(A)` (R282). -/
def execPla (s : State) : Result :=
  impliedClass .pla (fun t =>
    let r := t.throwaway.pop
    r.2.loadA r.1) s

/-- PLP: a throwaway read, then `SetStatus(Pop())` (R283). -/
def execPlp (s : State) : Result :=
  impliedClass .plp (fun t =>
    let r := t.throwaway.pop
    r.2.setStatus r.1) s

/-- CLC: `C <- 0` (R284). -/
def execClc (s : State) : Result :=
  impliedClass .clc (fun t => { t with p := { t.p with c := false } }) s

/-- CLD: `D <- 0` (R285). -/
def execCld (s : State) : Result :=
  impliedClass .cld (fun t => { t with p := { t.p with d := false } }) s

/-- CLI: `I <- 0` (R286). -/
def execCli (s : State) : Result :=
  impliedClass .cli (fun t => { t with p := { t.p with i := false } }) s

/-- CLV: `V <- 0` (R287). -/
def execClv (s : State) : Result :=
  impliedClass .clv (fun t => { t with p := { t.p with v := false } }) s

/-- SEC: `C <- 1` (R288). -/
def execSec (s : State) : Result :=
  impliedClass .sec (fun t => { t with p := { t.p with c := true } }) s

/-- SED: `D <- 1` (R289). -/
def execSed (s : State) : Result :=
  impliedClass .sed (fun t => { t with p := { t.p with d := true } }) s

/-- SEI: `I <- 1` (R290). -/
def execSei (s : State) : Result :=
  impliedClass .sei (fun t => { t with p := { t.p with i := true } }) s

/-- NOP: nothing (R291). -/
def execNop (s : State) : Result :=
  impliedClass .nop (fun t => t) s

/-- BRK: its padding byte has been fetched and is discarded; then the interrupt entry with bit 4 of the pushed
status byte forced to 1 (R292). -/
def execBrk (pad : Byte) (s : State) : Result :=
  impliedClass (.brk pad) (fun t => t.interruptEntry irqVector (t.statusByte ||| 0x10)) s

/-- RTI: a throwaway read, then the return from an interrupt (R293). -/
def execRti (s : State) : Result :=
  impliedClass .rti (fun t => t.throwaway.returnFromInterrupt) s

end Sys2Proof.Machine
end

