-- ==== Sys2Proof/Machine/Undoc.lean ====
section
/-! DEFINITION. Undocumented opcodes (R311 to R332). -/

namespace Sys2Proof.Machine

/-- KIL: the halted state, at `kilCycles` (R311, R134). -/
def execKil (op : Byte) (s : State) : Result :=
  withRow (.kil op) s fun _ =>
    commit { s with halted := true, cycles := s.cycles + s.cfg.kilCycles }

/-- SLO: shift left, then OR into A (R312). -/
def execSlo (m : Mode) (s : State) : Result :=
  rmwClass (.slo m) m shiftASL (fun v t => t.loadA (t.a ||| v)) s

/-- ISC: increment, then subtract from A (R313). -/
def execIsc (m : Mode) (s : State) : Result :=
  rmwClass (.isc m) m incOnly (fun v t => t.subCore v) s

/-- RLA: rotate left, then AND into A (R314). -/
def execRla (m : Mode) (s : State) : Result :=
  rmwClass (.rla m) m shiftROL (fun v t => t.loadA (t.a &&& v)) s

/-- SRE: shift right, then EOR into A (R315). -/
def execSre (m : Mode) (s : State) : Result :=
  rmwClass (.sre m) m shiftLSR (fun v t => t.loadA (t.a ^^^ v)) s

/-- RRA: rotate right, then add to A with the rotate's carry (R316). -/
def execRra (m : Mode) (s : State) : Result :=
  rmwClass (.rra m) m shiftROR (fun v t => t.addCore v) s

/-- DCP: decrement, then compare with A (R317). -/
def execDcp (m : Mode) (s : State) : Result :=
  rmwClass (.dcp m) m decOnly (fun v t => t.compare t.a v) s

/-- LAX: load A and X (R318). -/
def execLax (m : Mode) (s : State) : Result :=
  readClass (.lax m) m (fun v t => { t.loadA v with x := v }) s

/-- SAX: store A AND X (R319). -/
def execSax (m : Mode) (s : State) : Result :=
  storeClass (.sax m) m (fun t => t.a &&& t.x) s

/-- NOP, undocumented forms: the operand is read and discarded (R320). -/
def execNopUndoc (op : Byte) (m : Mode) (s : State) : Result :=
  readClass (.nopUndoc op m) m (fun _ t => t) s

/-- USBC, `SBC #` at 0xEB: `SubCore(operand)` (R321). -/
def execUsbc (v : Byte) (s : State) : Result :=
  readClass (.usbc v) (.imm v) (fun v t => t.subCore v) s

/-- ANC: AND, then C from bit 7 of A (R322). -/
def execAnc (op v : Byte) (s : State) : Result :=
  readClass (.anc op v) (.imm v) (fun v t =>
    let r := t.a &&& v
    { t with a := r, p := { t.p.setNZ r with c := r.getLsbD 7 } }) s

/-- ALR: AND, then LSR A (R323). -/
def execAlr (v : Byte) (s : State) : Result :=
  readClass (.alr v) (.imm v) (fun v t =>
    let r := shiftLSR (t.a &&& v) t.p
    { t with a := r.1, p := r.2 }) s

/-- ARR: AND, then rotate right through C, with C from bit 6 and V from bits 6 and 5 of A (R324). -/
def execArr (v : Byte) (s : State) : Result :=
  readClass (.arr v) (.imm v) (fun v t =>
    let r := ((t.a &&& v) >>> 1) ||| (if t.p.c then 0x80 else 0x00)
    { t with
      a := r
      p := { t.p.setNZ r with c := r.getLsbD 6, v := r.getLsbD 6 ^^ r.getLsbD 5 } }) s

/-- AXS: `X <- (A & X) - operand` without a borrow in; C is no borrow, V stays (R325). -/
def execAxs (v : Byte) (s : State) : Result :=
  readClass (.axs v) (.imm v) (fun v t =>
    { t with x := subResult (t.a &&& t.x) v true, p := t.p.afterCompare (t.a &&& t.x) v }) s

/-- LAS: A, X and SP take the operand AND SP (R326). -/
def execLas (w : Word) (s : State) : Result :=
  readClass (.las w) (.absY w) (fun v t =>
    let r := v &&& t.sp
    { t with a := r, x := r, sp := r, p := t.p.setNZ r }) s

/-- XAA: `A <- (A | k) & X & operand` for a free `k` (R327). -/
def execXaa (v : Byte) (s : State) : Result :=
  readClass (.xaa v) (.imm v) (fun v t =>
    let k := t.drawByte
    k.2.loadA ((t.a ||| k.1) &&& t.x &&& v)) s

/-- LXA: A and X take `(A | k) & operand` for a free `k` (R328). -/
def execLxa (v : Byte) (s : State) : Result :=
  readClass (.lxa v) (.imm v) (fun v t =>
    let k := t.drawByte
    let r := (t.a ||| k.1) &&& v
    { k.2.loadA r with x := r }) s

/-- The unstable stores of R329 to R332: `pre` first, then the value AND the base's high byte plus 1; across
a page, a free value to a free address. -/
def unstableStore (i : Instr) (m : Mode) (pre : State → State) (v : State → Byte) (s : State) : Result :=
  withRow i s fun op =>
    let r := s.resolve m
    let t := pre r.2
    let extra := writePenalty s.cfg r.1.crossed
    if r.1.crossed then
      let a := t.drawWord
      let k := a.2.drawByte
      complete op extra (k.2.busWrite a.1 k.1)
    else
      complete op extra (t.busWrite r.1.ea (v t &&& (hiByte r.1.base + 1)))

/-- AHX: stores `A & X & h` (R329). -/
def execAhx (m : Mode) (s : State) : Result :=
  unstableStore (.ahx m) m (fun t => t) (fun t => t.a &&& t.x) s

/-- SHY: stores `Y & h` (R330). -/
def execShy (w : Word) (s : State) : Result :=
  unstableStore (.shy w) (.absX w) (fun t => t) (fun t => t.y) s

/-- SHX: stores `X & h` (R331). -/
def execShx (w : Word) (s : State) : Result :=
  unstableStore (.shx w) (.absY w) (fun t => t) (fun t => t.x) s

/-- TAS: `SP <- A & X`, and stores `SP & h` (R332). -/
def execTas (w : Word) (s : State) : Result :=
  unstableStore (.tas w) (.absY w) (fun t => { t with sp := t.a &&& t.x }) (fun t => t.sp) s

end Sys2Proof.Machine
end

