-- ==== Sys2Proof/Machine/Fetch.lean ====
section
/-! DEFINITION. Fetching an instruction (R131, R135), and placing one where the next fetch finds it. -/

namespace Sys2Proof.Machine

/-- Fetches the instruction at PC: the opcode byte, then its operand bytes, each by `Fetch8` (R131, R100). Of an
unpopulated opcode only the opcode byte is fetched (R135): its meaning raises the failure and reads no operand,
so the operand bytes of the answered instruction stand for none. -/
def State.fetchInstr (s : State) : Instr × State :=
  let op := s.fetch8
  if op.2.cfg.classOf op.1 = .unpopulated then (decodeOpcode op.1 0 0, op.2)
  else
    match lengthOf op.1 with
    | 1 => (decodeOpcode op.1 0 0, op.2)
    | 2 =>
      let b1 := op.2.fetch8
      (decodeOpcode op.1 b1.1 0, b1.2)
    | _ =>
      let b1 := op.2.fetch8
      let b2 := b1.2.fetch8
      (decodeOpcode op.1 b1.1 b2.1, b2.2)

/-- Sets the cell of an address directly, with no bus event. -/
def State.poke (a : Word) (v : Byte) (s : State) : State := { s with mem := s.mem.write a.toNat v }

/-- Places bytes at an address and the ones after it, modulo 65536. -/
def State.placeBytes (a : Word) : List Byte → State → State
  | [], s => s
  | v :: rest, s => (s.poke a v).placeBytes (a + 1) rest

/-- A state whose next step fetches: running, no failure recorded, every address with a cell, and the default
handler at the three addresses from PC. -/
def State.readyToFetch (s : State) : State :=
  { s with
    halted := false
    fault := none
    memSize := max s.memSize 65536
    dev := s.dev.filter fun a => a != s.pc.toNat && a != (s.pc + 1).toNat && a != (s.pc + 2).toNat }

end Sys2Proof.Machine
end

