-- ==== Sys2Proof/Machine/Run.lean ====
section
/-! DEFINITION. Running a fetched instruction (R131). -/

namespace Sys2Proof.Machine

/-- Dispatches the fetched instruction, unless its fetch went out of range (R131, R52). -/
def runFetched (r : Instr × State) : Result :=
  match r.2.fault with
  | some f => .fault f
  | none => exec r.1 r.2

end Sys2Proof.Machine
end

