-- ==== Sys2Proof/Machine/Step.lean ====
section
/-! DEFINITION. One step of the executor (R131), and the placing of an instruction for the next step. -/

namespace Sys2Proof.Machine

/-- One step (R131): halted, nothing changes (R140); with a failure recorded, no further step is taken (R374);
else the instruction at PC is fetched and dispatched. -/
def step (s : State) : Host.Outcome State Fault Refusal :=
  if s.halted then .next s
  else
    match s.fault with
    | some f => .fault f
    | none => runFetched s.fetchInstr

/-- The state with the instruction whose bits are `w` stored at PC, where the next step fetches. -/
def State.withFetchWord (s : State) (nbits w : Nat) : State :=
  s.readyToFetch.placeBytes s.pc (tableBytes nbits w)

end Sys2Proof.Machine
end

