-- ==== Sys2Proof/Machine/HostCalls.lean ====
section
/-! DEFINITION. The calls of the embedding system (R142): made between whole steps, never inside one. -/

namespace Sys2Proof.Machine

/-! ### Memory and handlers -/

/-- `loadImage(bytes)`: the image becomes the backing store and every handler the default one; no register
changes (R51, R415). -/
def loadImage (image : List Byte) (s : State) : State :=
  { s with mem := Memory.ofBytes image, memSize := image.length, dev := [] }

/-- `installReadHandler(a, h)`: adds `a` to `DEV` (R53, R73, R142). -/
def installReadHandler (a : Word) (s : State) : State := { s with dev := devInsert a.toNat s.dev }

/-- `installWriteHandler(a, h)`: adds `a` to `DEV` (R53, R73, R142). -/
def installWriteHandler (a : Word) (s : State) : State := { s with dev := devInsert a.toNat s.dev }

/-- The safe read: the cell, or any byte beyond `memSize`; no event, no handler, no change (R61). -/
def safeRead (a : Word) (s : State) : Byte :=
  if a.toNat < s.memSize then s.peek a else Config.safeByte a

/-! ### Reset -/

/-- `reset()`: A, X and Y are draws, PC is read through the handlers, memory and handlers stay (R410). -/
def resetCall (s : State) : Result :=
  let t : State :=
    { s with
      a := Config.freeByte s.draws
      x := Config.freeByte (s.draws + 1)
      y := Config.freeByte (s.draws + 2)
      draws := s.draws + 3
      sp := 0xFD
      p := { c := false, z := true, i := true, d := false, b := false, v := false, n := false }
      cycles := 0
      halted := false
      fault := none }
  let r := t.readWord resetVector
  commit { r.2 with pc := r.1 }

/-! ### Interrupts -/

/-- The cycles of an interrupt entry by a host call (R376, R377). -/
def interruptCycles : Nat := 7

/-- An interrupt taken: the entry with the status byte as it is, and its cycles (R376, R377). -/
def takeInterrupt (vector : Word) (s : State) : Result :=
  let t := s.interruptEntry vector s.statusByte
  commit { t with cycles := t.cycles + interruptCycles }

/-- `irq()`: no effect while halted, faulted or masked by I; a masked one is not remembered (R376, R379). -/
def irqCall (s : State) : Result :=
  if s.halted || s.fault.isSome || s.p.i then .next s else takeInterrupt irqVector s

/-- `nmi()`: no effect while halted or faulted; I does not mask it (R377). -/
def nmiCall (s : State) : Result :=
  if s.halted || s.fault.isSome then .next s else takeInterrupt nmiVector s

/-! ### Execution -/

/-- Whether the loop of `execute` takes another step (R138). -/
def State.goesOn (deadline : Nat) (s : State) : Bool := decide (s.cycles < deadline) && !s.halted

/-- The loop of `execute`: whole steps until the deadline, the halted state or a failure (R138, R141). The
first argument bounds the steps. -/
def executeLoop : Nat → Nat → State → Result
  | 0, deadline, s => if s.goesOn deadline then .fault .budgetNotReached else .next s
  | k + 1, deadline, s =>
    if s.goesOn deadline then
      match step s with
      | .next t => if t.fault.isSome then .next t else executeLoop k deadline t
      | .fault f => .fault f
      | .refused r => .refused r
    else .next s

/-- `execute(n)`: the state at return, and the cycles charged; no value when a failure ended the call (R138 to
R141). Every step of a running machine charges a cycle (R144), so `n` steps reach the deadline. DESIGN CHOICE, safe
(log entry 18): called with a failure already recorded it answers that failure for every `n`, 0 included; R138
tests only `halted` at entry. -/
def executeCall (n : Nat) (s : State) : Host.Outcome (State × Option Nat) Fault Refusal :=
  if s.halted then .next (s, some 0)
  else
    match s.fault with
    | some f => .fault f
    | none =>
      match executeLoop n (s.cycles + n) s with
      | .next t => .next (t, if t.fault.isSome then none else some (t.cycles - s.cycles))
      | .fault f => .fault f
      | .refused r => .refused r

/-! ### Accessors -/

/-- `getFlag(i)`: the flag whose index is its bit position in the status byte (R37, R373). -/
def getFlag (i : Int) (s : State) : Except Fault Bool :=
  if i = 0 then .ok s.p.c
  else if i = 1 then .ok s.p.z
  else if i = 2 then .ok s.p.i
  else if i = 3 then .ok s.p.d
  else if i = 4 then .ok s.p.b
  else if i = 6 then .ok s.p.v
  else if i = 7 then .ok s.p.n
  else .error (.invalidFlagIndex i)

/-- `getA()` (R37). -/
def getA (s : State) : Byte := s.a

/-- `getX()` (R37). -/
def getX (s : State) : Byte := s.x

/-- `getY()` (R37). -/
def getY (s : State) : Byte := s.y

/-- `getPC()` (R37). -/
def getPC (s : State) : Word := s.pc

/-- `getSP()` (R37). -/
def getSP (s : State) : Byte := s.sp

/-- `getStatusByte()` (R37). -/
def getStatusByte (s : State) : Byte := s.statusByte

/-- The cycle counter reader (R387). -/
def getCycles (s : State) : Nat := s.cycles

/-- `setStatusByte(b)`, the same operation as `SetStatus` (R29). -/
def setStatusByte (b : Byte) (s : State) : State := s.setStatus b

end Sys2Proof.Machine
end

