-- ==== Sys2Proof/Safety.lean ====
section
/-! DEFINITION. What the statements call a state in which an instruction can run, the invariant of the
machine, the parts of a state that a frame leaves unchanged, the accesses that stop the machine, and a run of
steps. -/

namespace Sys2Proof.Machine

/-! ### Where an instruction runs -/

/-- Every 16-bit address has a cell: the launch premise of R52. -/
def State.Full (s : State) : Prop := 65536 ≤ s.memSize

/-- The state an instruction is dispatched in: no failure recorded (R131), and every address has a cell (R52). -/
def State.Ready (s : State) : Prop := s.fault = none ∧ s.Full

/-- No address of the list has a custom handler. -/
def State.Plain (s : State) (as : List Word) : Prop := ∀ a ∈ as, s.inDev a = false

/-! ### The invariant -/

/-- A recorded failure is one that a step records: of an unpopulated opcode, under its own label (R38, R370). -/
def State.faultWf (s : State) : Prop :=
  match s.fault with
  | none => True
  | some (.unemulatedInstruction op) => s.cfg.classOf op = .unpopulated ∧ op ∉ s.cfg.illegalLabelled
  | some (.illegalInstruction op) => s.cfg.classOf op = .unpopulated ∧ op ∈ s.cfg.illegalLabelled
  | some _ => False

/-- The invariant of the machine: memory and handler list in canonical form, a recorded failure is one of the
dispatch, and a halted machine has none (R51, R53, R38, R35). -/
def State.Inv (s : State) : Prop :=
  s.mem.wf = true ∧ devWf s.dev = true ∧ s.faultWf ∧ (s.halted = true → s.fault = none)

/-! ### Frames -/

/-- The run state, the failure record, the size of memory, the handlers and the parameters are the same. -/
def State.SameRun (s t : State) : Prop :=
  t.halted = s.halted ∧ t.fault = s.fault ∧ t.memSize = s.memSize ∧ t.dev = s.dev ∧ t.cfg = s.cfg

/-- Every byte of memory is the same. -/
def State.SameMem (s t : State) : Prop := ∀ b : Word, t.peek b = s.peek b

/-- Every byte of memory outside the listed addresses is the same. -/
def State.SameMemBut (s t : State) (as : List Word) : Prop := ∀ b : Word, b ∉ as → t.peek b = s.peek b

/-- The index registers and the stack pointer are the same. -/
def State.SameXYS (s t : State) : Prop := t.x = s.x ∧ t.y = s.y ∧ t.sp = s.sp

/-- The data registers and the stack pointer are the same. -/
def State.SameAXYS (s t : State) : Prop := t.a = s.a ∧ s.SameXYS t

/-- The charge of an instruction: its base cycles and the given extra ones (R137). -/
def State.Charged (s t : State) (op : Byte) (extra : Nat) : Prop :=
  t.cycles = s.cycles + (s.cfg.baseCyclesOf op + extra)

/-- The common part of a read-class instruction's effect: PC stays past the instruction, the operand's bus
events and draws, one cycle more where indexing crossed a page, nothing stored (R116, R115). -/
def State.AfterRead (s t : State) (m : Mode) (op : Byte) : Prop :=
  t.pc = s.pc ∧ s.Charged t op (if (s.readOperand m).crossed then 1 else 0) ∧
  t.bus = (s.readOperand m).st.bus ∧ t.draws = (s.readOperand m).st.draws ∧ s.SameRun t ∧ s.SameMem t

/-- What a write of `v` leaves at the effective address of a mode: the byte at a plain address, no cell changed
at a custom handler's, and no other cell changed (R54, R72). -/
def State.Stored (s t : State) (ea : Word) (v : Byte) : Prop :=
  (s.inDev ea = false → t.peek ea = v) ∧ (s.inDev ea = true → s.SameMem t) ∧ s.SameMemBut t [ea]

/-- The effect of a store of `v`: one write of the effective address and no read of it; no cycle for a page
crossing but under `penaltyOnWrites` (R118, R115). -/
def State.AfterStore (s t : State) (m : Mode) (op v : Byte) : Prop :=
  s.Stored t (s.resolve m).1.ea v ∧ s.SameAXYS t ∧ t.p = s.p ∧ t.pc = s.pc ∧
  s.Charged t op (if (s.resolve m).1.crossed ∧ s.cfg.penaltyOnWrites then 1 else 0) ∧
  t.bus = .write (s.resolve m).1.ea v :: (s.resolve m).2.bus ∧ t.draws = (s.resolve m).2.draws ∧ s.SameRun t

/-- The byte a read-modify-write reads from its effective address (R117). -/
def State.rmwOld (s : State) (m : Mode) : Byte := ((s.resolve m).2.busRead (s.resolve m).1.ea).1

/-- The common part of a read-modify-write of memory with the new value `v`: a read, the write of the old
value, the write of the new one, in that order; no cycle for a page crossing but under `penaltyOnWrites` (R117,
R115). -/
def State.AfterRmw (s t : State) (m : Mode) (op v : Byte) : Prop :=
  s.Stored t (s.resolve m).1.ea v ∧ s.SameXYS t ∧ t.pc = s.pc ∧
  s.Charged t op (if (s.resolve m).1.crossed ∧ s.cfg.penaltyOnWrites then 1 else 0) ∧
  t.bus = .write (s.resolve m).1.ea v :: .write (s.resolve m).1.ea (s.rmwOld m) ::
    .read (s.resolve m).1.ea (s.rmwOld m) :: (s.resolve m).2.bus ∧
  t.draws = ((s.resolve m).2.busRead (s.resolve m).1.ea).2.draws ∧ s.SameRun t

/-- The common part of an implied instruction that touches neither memory nor bus: PC stays past it, its base
cycles, nothing else (R112, R137). -/
def State.AfterImplied (s t : State) (op : Byte) : Prop :=
  t.pc = s.pc ∧ s.Charged t op 0 ∧ t.bus = s.bus ∧ t.draws = s.draws ∧ s.SameRun t ∧ s.SameMem t

/-- The common part of an instruction that pushes one byte after a throwaway read (R112, R26): `v` at the old
stack address, the offset one less, the read of PC and then the write on the bus. -/
def State.AfterPush (s t : State) (op v : Byte) : Prop :=
  s.Stored t (stackAddr s.sp) v ∧ t.sp = s.sp - 1 ∧ t.a = s.a ∧ t.x = s.x ∧ t.y = s.y ∧ t.p = s.p ∧ t.pc = s.pc ∧
  s.Charged t op 0 ∧ t.bus = .write (stackAddr s.sp) v :: .read s.pc (s.busRead s.pc).1 :: s.bus ∧
  t.draws = s.throwaway.draws ∧ s.SameRun t

/-- The common part of an instruction that pops one byte `v` after a throwaway read (R112, R26): the offset one
more, the two reads on the bus, nothing stored; at a plain address `v` is the cell's byte. -/
def State.AfterPop (s t : State) (op v : Byte) : Prop :=
  t.sp = s.sp + 1 ∧ t.x = s.x ∧ t.y = s.y ∧ t.pc = s.pc ∧ s.Charged t op 0 ∧
  t.bus = .read (stackAddr (s.sp + 1)) v :: .read s.pc (s.busRead s.pc).1 :: s.bus ∧
  (s.inDev (stackAddr (s.sp + 1)) = false → v = s.peek (stackAddr (s.sp + 1))) ∧
  t.draws = s.throwaway.pop.2.draws ∧ s.SameRun t ∧ s.SameMem t

/-- `t` has the sum of A, `v` and the carry `c` in A, and its flags: C is bit 8 of the exact sum, V that the operands
have like sign and the result the other, N and Z of the result; the other flags are those of `s` (R180). -/
def State.Added (s t : State) (v : Byte) (c : Bool) : Prop :=
  let sum := s.a.toNat + v.toNat + c.toNat
  t.a.toNat = sum % 256 ∧
  t.p = { s.p with
    c := decide (sum ≥ 256)
    v := (s.a.getLsbD 7 == v.getLsbD 7) && (t.a.getLsbD 7 != s.a.getLsbD 7)
    n := t.a.getLsbD 7
    z := decide (t.a = 0) }

/-- `t` has A less `v` less the borrow `1 - C` in A, and its flags: C is no borrow, V that the operands have unlike
sign and the result's differs from A's, N and Z of the result; the other flags are those of `s` (R181). -/
def State.Subtracted (s t : State) (v : Byte) : Prop :=
  let diff : Int := s.a.toNat - v.toNat - (1 - s.p.c.toNat)
  (t.a.toNat : Int) = diff % 256 ∧
  t.p = { s.p with
    c := decide (diff ≥ 0)
    v := (s.a.getLsbD 7 != v.getLsbD 7) && (t.a.getLsbD 7 != s.a.getLsbD 7)
    n := t.a.getLsbD 7
    z := decide (t.a = 0) }

/-! ### Accesses out of range -/

/-- An address without a custom handler at or beyond the end of the image: an access of it stops the machine
(R52). -/
def State.beyond (s : State) (a : Word) : Bool := !s.inDev a && decide (s.memSize ≤ a.toNat)

/-- An outcome for accesses of the addresses `as`, in this order: the stop at the first one beyond the image (R52). -/
def State.StopsIn (s : State) (as : List Word) (r : Result) : Prop :=
  ∀ a, as.find? s.beyond = some a → r = .fault (.busOutOfRange a)

/-- The addresses of a zero-page pointer's bytes, the low one first (R109, R119). -/
def State.zpReads (s : State) (p : Byte) : List Word :=
  [p.setWidth 16, if p = 255 then (if s.cfg.zpPointerWrap then 0 else 256) else p.setWidth 16 + 1]

/-- The addresses of the pointer's bytes that a mode's resolver reads, the low one first (R108, R109, R110). -/
def State.pointerReads (s : State) : Mode → List Word
  | .ind w => [w, if w.toNat % 256 = 255 then w - 255 else w + 1]
  | .izx a => s.zpReads (a + s.x)
  | .izy a => s.zpReads a
  | _ => []

/-- The address an unstable store writes: across a page a free one (R329 to R332). -/
def State.unstableAddr (s : State) (m : Mode) : Word :=
  if (s.resolve m).1.crossed then Config.freeWord (s.resolve m).2.draws else (s.resolve m).1.ea

/-- The addresses an instruction accesses once its bytes are fetched, in order, a repeated access of one address
left out: the throwaway read of R112, the stack and the vector, the pointer's bytes, the effective address. -/
def State.accesses (s : State) : Instr → List Word
  | .pha => [s.pc, stackAddr s.sp]
  | .php => [s.pc, stackAddr s.sp]
  | .pla => [s.pc, stackAddr (s.sp + 1)]
  | .plp => [s.pc, stackAddr (s.sp + 1)]
  | .rts => [s.pc, stackAddr (s.sp + 1), stackAddr (s.sp + 2)]
  | .rti => [s.pc, stackAddr (s.sp + 1), stackAddr (s.sp + 2), stackAddr (s.sp + 3)]
  | .jsr _ => [stackAddr s.sp, stackAddr (s.sp - 1)]
  | .brk _ => [stackAddr s.sp, stackAddr (s.sp - 1), stackAddr (s.sp - 2), 0xFFFE, 0xFFFF]
  | .jmp m => s.pointerReads m
  | .ahx m => s.pointerReads m ++ [s.unstableAddr m]
  | .shy w => [s.unstableAddr (.absX w)]
  | .shx w => [s.unstableAddr (.absY w)]
  | .tas w => [s.unstableAddr (.absY w)]
  | i =>
    if i.mode.format ∈ [Format.ZP, .ZPX, .ZPY, .ABS, .ABSX, .ABSY, .IZX, .IZY] then
      s.pointerReads i.mode ++ [(s.resolve i.mode).1.ea]
    else []

/-! ### Runs -/

/-- `t` is reached from `s` by steps, each taken below the deadline, not halted and with no failure recorded; by none
if they are the same (R138, R131). -/
inductive RunsBelow (deadline : Nat) : State → State → Prop where
  | none (s : State) : RunsBelow deadline s s
  | more {s t u : State} : s.cycles < deadline → s.halted = false → s.fault = Option.none → step s = .next t →
      RunsBelow deadline t u → RunsBelow deadline s u

/-! ### Two runs -/

/-- The states agree on everything but the cycle counter and the timing parameters (R427). -/
def State.SameButTiming (s t : State) : Prop :=
  t = { s with
    cycles := t.cycles
    cfg := { s.cfg with
      baseCycles := t.cfg.baseCycles
      penaltyOnWrites := t.cfg.penaltyOnWrites
      kilCycles := t.cfg.kilCycles } }

/-- Two outcomes agree: both stop for the same reason, or both go on to related states. -/
def Result.Related (r : State → State → Prop) : Result → Result → Prop
  | .next s, .next t => r s t
  | .fault f, .fault g => f = g
  | .refused f, .refused g => f = g
  | _, _ => False

/-- The state with the decimal flag set to `v`. -/
def State.withD (v : Bool) (s : State) : State := { s with p := { s.p with d := v } }

/-- The outcome with the decimal flag of its state set to `v`. -/
def Result.withD (v : Bool) : Result → Result
  | .next s => .next (s.withD v)
  | .fault f => .fault f
  | .refused f => .refused f

end Sys2Proof.Machine
end

