-- ==== Sys2Proof/Certificates/Slice0/Obligations.lean ====
section
/-! DEFINITION. The statements for the provers, each from the rules its docstring names. An instruction runs in
the state after its bytes have been fetched: PC is past them (R24). -/

open Sys2Proof Sys2Proof.Machine

/-! ### Encoding -/

/-- R80 to R84: decoding the encoding of a well-formed instruction gives it back, with every operand at every
value, whatever follows. -/
def Obligations.DecodeOfEncode : Prop :=
  ∀ (i : Instr) (rest : List Byte), i.wellFormed = true → decode (encode i ++ rest) = .ok (i, rest)

/-- R82, R84: what the decoder answers is a well-formed instruction, and its encoding is the bytes it was
decoded from (the bytes an instruction does not have are not read). -/
def Obligations.EncodeOfDecode : Prop :=
  ∀ (bs : List Byte) (i : Instr) (rest : List Byte), decode bs = .ok (i, rest) →
    i.wellFormed = true ∧ encode i ++ rest = bs

/-- Words written out from the spec's encodings: one or more of every section 42 to 47. -/
def Obligations.WordsDecodeAsWritten : Prop :=
  decodeTableWord 16 0x7FA9 = some (.lda (.imm 0x7F)) ∧
  decodeTableWord 24 0x1234BD = some (.lda (.absX 0x1234)) ∧
  decodeTableWord 16 0xFF96 = some (.stx (.zpY 0xFF)) ∧
  decodeTableWord 16 0x4071 = some (.adc (.izy 0x40)) ∧
  decodeTableWord 16 0x2061 = some (.adc (.izx 0x20)) ∧
  decodeTableWord 8 0x6A = some (.ror .acc) ∧
  decodeTableWord 16 0xFCD0 = some (.bne 0xFC) ∧
  decodeTableWord 24 0x30FF6C = some (.jmp (.ind 0x30FF)) ∧
  decodeTableWord 24 0x800020 = some (.jsr 0x8000) ∧
  decodeTableWord 16 0xAA00 = some (.brk 0xAA) ∧
  decodeTableWord 8 0x40 = some .rti ∧
  decodeTableWord 8 0xF2 = some (.kil 0xF2) ∧
  decodeTableWord 24 0x12F01B = some (.slo (.absY 0x12F0)) ∧
  decodeTableWord 16 0x30EB = some (.usbc 0x30) ∧
  decodeTableWord 24 0x12F0FC = some (.nopUndoc 0xFC (.absX 0x12F0))

/-- R80, R87: every opcode byte has a row, and the length its byte alone tells decides how many bytes are read;
with fewer bytes the decoder refuses by name. -/
def Obligations.EveryOpcodeHasARow : Prop :=
  ∀ (op : Byte) (rest : List Byte),
    (lengthOf op ≤ 1 + rest.length →
      ∃ i, decode (op :: rest) = .ok (i, rest.drop (lengthOf op - 1)) ∧ i.opcodeOf = some op) ∧
    (1 + rest.length < lengthOf op → decode (op :: rest) = .error (.truncated op))

/-- R132, R133: the class of an opcode byte: Halt for the twelve KIL opcodes; Populated for every other opcode
outside the optional set and for those of it that `undocPopulated` names; Unpopulated for the rest. -/
def Obligations.OpcodeClasses : Prop :=
  ∀ (cfg : Config) (op : Byte),
    (cfg.classOf op = .halt ↔ op ∈ kilOpcodes) ∧
    (cfg.classOf op = .populated ↔
      op ∉ kilOpcodes ∧ (op ∉ optionalOpcodes ∨ op ∈ cfg.undocPopulated)) ∧
    (cfg.classOf op = .unpopulated ↔ op ∈ optionalOpcodes ∧ op ∉ cfg.undocPopulated)

/-! ### The step -/

/-- R131: a step of a running machine runs the decoded instruction. When the bytes at PC, at plain addresses,
decode to `i` and its opcode is not unpopulated, the step is `exec i` on the state with PC past the instruction
and its bytes' reads on the bus, one by one from the first (R24, R56). -/
def Obligations.StepRunsTheDecodedInstruction : Prop :=
  ∀ (s : State) (i : Instr) (rest : List Byte),
    s.halted = false → s.Ready → s.Plain [s.pc, s.pc + 1, s.pc + 2] →
    s.cfg.classOf (s.peek s.pc) ≠ .unpopulated →
    decode [s.peek s.pc, s.peek (s.pc + 1), s.peek (s.pc + 2)] = .ok (i, rest) →
    step s = exec i
      { s with
        pc := s.pc + BitVec.ofNat 16 (encode i).length
        bus := ([BusEvent.read s.pc (s.peek s.pc), .read (s.pc + 1) (s.peek (s.pc + 1)),
          .read (s.pc + 2) (s.peek (s.pc + 2))].take (encode i).length).reverse ++ s.bus }

/-- R135, R136: an unpopulated opcode raises its failure. PC is past the opcode, its fetch is on the bus, the
failure is recorded under its label, and nothing else has changed, the cycle counter included. -/
def Obligations.StepRecordsAnUnpopulatedOpcode : Prop :=
  ∀ (s : State), s.halted = false → s.Ready →
    s.cfg.classOf (s.busRead s.pc).1 = .unpopulated →
    step s = .next
      { s with
        pc := s.pc + 1
        bus := .read s.pc (s.busRead s.pc).1 :: s.bus
        draws := (s.busRead s.pc).2.draws
        fault := some (if (s.busRead s.pc).1 ∈ s.cfg.illegalLabelled
          then Fault.illegalInstruction (s.busRead s.pc).1
          else Fault.unemulatedInstruction (s.busRead s.pc).1) }

/-- R140, R374, R141: a halted machine's step and `execute` change nothing, and `execute` returns 0. A machine with a
failure recorded takes no step: the step answers that failure (the model's choice, log entry 7), and so does
`execute(n)` for every `n`, 0 included (the model's choice, log entry 18). -/
def Obligations.NoStepWhenHaltedOrFaulted : Prop :=
  ∀ (s : State),
    (s.halted = true → step s = .next s ∧ ∀ n, executeCall n s = .next (s, some 0)) ∧
    (∀ f, s.halted = false → s.fault = some f → step s = .fault f ∧ ∀ n, executeCall n s = .fault f)

/-- R82, R91, R310, R135: what runs on a term that is no populated row. A term that is no row of the table is
refused by name, which is the model's choice (log entry 15); of an optional opcode outside `undocPopulated` the failure is recorded and nothing else
changes. -/
def Obligations.FormsOutsideThePopulatedRows : Prop :=
  ∀ (i : Instr) (s : State),
    (i.wellFormed = false → exec i s = .refused .noSuchForm) ∧
    ∀ op, i.opcodeOf = some op → s.cfg.populates op = false →
      exec i s = .next
        { s with fault := some (if op ∈ s.cfg.illegalLabelled then Fault.illegalInstruction op
          else Fault.unemulatedInstruction op) }

/-- R52: in any image, an access of an address at or beyond its end through a default handler stops the machine with
`busOutOfRange`, the first such access of the step or call (log entry 8: the step ends there, with no state after it).
An instruction whose accesses all reach a cell or a custom handler goes on; each byte of an instruction's fetch, and the
accesses of `reset()`, `irq()` and `nmi()`, stop so too; and a step with no failure recorded stops for no other reason. -/
def Obligations.AccessOutOfRangeStops : Prop :=
  ∀ (s : State), s.fault = none →
    (∀ (i : Instr) (op : Byte), i.opcodeOf = some op → s.cfg.populates op = true →
      s.StopsIn (s.accesses i) (exec i s) ∧
      ((s.accesses i).find? s.beyond = none → ∃ t, exec i s = .next t)) ∧
    (s.halted = false →
      let op := (s.busRead s.pc).1
      s.StopsIn [s.pc] (step s) ∧
      (s.beyond s.pc = false → s.cfg.classOf op ≠ .unpopulated →
        s.StopsIn ([s.pc + 1, s.pc + 2].take (lengthOf op - 1)) (step s)) ∧
      (∀ f, step s = .fault f → ∃ a, f = .busOutOfRange a ∧ s.inDev a = false ∧ s.memSize ≤ a.toNat)) ∧
    s.StopsIn [0xFFFC, 0xFFFD] (resetCall s) ∧
    (s.halted = false →
      let pushed := [stackAddr s.sp, stackAddr (s.sp - 1), stackAddr (s.sp - 2)]
      s.StopsIn (pushed ++ [0xFFFA, 0xFFFB]) (nmiCall s) ∧
      (s.p.i = false → s.StopsIn (pushed ++ [0xFFFE, 0xFFFF]) (irqCall s)))

/-! ### Reset and the invariant -/

/-- R40, R416: the fields of the state after reset that the spec gives a value, PC as the word at 0xFFFC. (A, X
and Y are the model's choice, log entry 2; memory's contents log entry 1.) -/
def Obligations.ResetValues : Prop :=
  let s := State.reset
  s.pc = cat (s.peek 0xFFFD) (s.peek 0xFFFC) ∧ s.sp = 0xFD ∧
  s.p = { c := false, z := true, i := true, d := false, b := false, v := false, n := false } ∧
  s.statusByte = 0x06 ∧ s.cycles = 0 ∧ s.halted = false ∧ s.fault = none ∧ s.memSize = 65536 ∧ s.dev = []

/-- R410: the reset sequence. The flags, SP and the counter take their values, A, X and Y are draws (log entry 5),
the record of a failure and the halted state go, PC is the word read at 0xFFFC, low byte first, through the
handlers; memory, handlers and parameters stay. -/
def Obligations.ResetSequence : Prop :=
  ∀ (s : State), s.Full →
    ∃ t lo hi, resetCall s = .next t ∧
      t.a = Config.freeByte s.draws ∧ t.x = Config.freeByte (s.draws + 1) ∧ t.y = Config.freeByte (s.draws + 2) ∧
      t.p = { c := false, z := true, i := true, d := false, b := false, v := false, n := false } ∧
      t.sp = 0xFD ∧ t.cycles = 0 ∧ t.halted = false ∧ t.fault = none ∧ t.pc = cat hi lo ∧
      t.bus = .read 0xFFFD hi :: .read 0xFFFC lo :: s.bus ∧
      (s.inDev 0xFFFC = false → lo = s.peek 0xFFFC) ∧ (s.inDev 0xFFFD = false → hi = s.peek 0xFFFD) ∧
      t.mem = s.mem ∧ t.memSize = s.memSize ∧ t.dev = s.dev ∧ t.cfg = s.cfg

/-- The invariant of the machine holds at reset. -/
def Obligations.ResetHasTheInvariant : Prop := State.reset.Inv

/-- Every step keeps the invariant: memory and the handler list stay canonical (R51, R53), a recorded failure is
one of an unpopulated opcode under its own label (R135, R136), and a halted machine has none (R130, R374). -/
def Obligations.StepKeepsTheInvariant : Prop :=
  ∀ (s t : State), s.Inv → step s = .next t → t.Inv

/-- R53, R51: no step installs a handler, changes the size of memory, or changes a parameter. -/
def Obligations.StepKeepsHandlersAndParameters : Prop :=
  ∀ (s t : State), step s = .next t → t.dev = s.dev ∧ t.memSize = s.memSize ∧ t.cfg = s.cfg

/-- The host calls keep the invariant (R142): loading an image, installing a handler, reset, both interrupts,
`execute` and `setStatusByte`. -/
def Obligations.HostCallsKeepTheInvariant : Prop :=
  ∀ (s t : State), s.Inv →
    (∀ image, (loadImage image s).Inv) ∧
    (∀ a, (installReadHandler a s).Inv ∧ (installWriteHandler a s).Inv) ∧
    (∀ b, (setStatusByte b s).Inv) ∧
    (resetCall s = .next t → t.Inv) ∧
    (irqCall s = .next t → t.Inv) ∧
    (nmiCall s = .next t → t.Inv) ∧
    (∀ n r, executeCall n s = .next (t, r) → t.Inv)

/-! ### Rules about the whole machine -/

/-- R427: nothing in the functional behaviour depends on cycle counts. From states that agree on everything but
the counter and the timing parameters, a step stops for the same reason or goes on to states that agree so. -/
def Obligations.StepDoesNotReadCycles : Prop :=
  ∀ (s t : State), s.SameButTiming t → Result.Related State.SameButTiming (step s) (step t)

/-- R31: D does not affect arithmetic. Every adding, subtracting and comparing instruction (ADC, SBC, ISC, RRA, USBC,
ARR, AXS, CMP, CPX, CPY, DCP) gives the same outcome whatever D holds, but for D itself, which it keeps. -/
def Obligations.DecimalFlagHasNoEffectOnArithmetic : Prop :=
  ∀ (m : Mode) (v : Byte) (d : Bool) (s : State),
    exec (.adc m) (s.withD d) = Result.withD d (exec (.adc m) s) ∧
    exec (.sbc m) (s.withD d) = Result.withD d (exec (.sbc m) s) ∧
    exec (.isc m) (s.withD d) = Result.withD d (exec (.isc m) s) ∧
    exec (.rra m) (s.withD d) = Result.withD d (exec (.rra m) s) ∧
    exec (.usbc v) (s.withD d) = Result.withD d (exec (.usbc v) s) ∧
    exec (.arr v) (s.withD d) = Result.withD d (exec (.arr v) s) ∧
    exec (.axs v) (s.withD d) = Result.withD d (exec (.axs v) s) ∧
    exec (.cmp m) (s.withD d) = Result.withD d (exec (.cmp m) s) ∧
    exec (.cpx m) (s.withD d) = Result.withD d (exec (.cpx m) s) ∧
    exec (.cpy m) (s.withD d) = Result.withD d (exec (.cpy m) s) ∧
    exec (.dcp m) (s.withD d) = Result.withD d (exec (.dcp m) s)

/-- R34, R144: the counter never falls, and every populated instruction charges at least 2 cycles, under every
base cycle table R144 admits. -/
def Obligations.EveryInstructionChargesTwoCycles : Prop :=
  ∀ (s t : State), s.cfg.wellFormed = true → step s = .next t →
    s.cycles ≤ t.cycles ∧
    (s.halted = false → t.halted = false → t.fault = none → s.cycles + 2 ≤ t.cycles)

/-- R35, R134: a step halts the machine only by fetching a KIL opcode, and then PC is past it, `kilCycles` are
charged, and no register, flag or memory cell changes. -/
def Obligations.OnlyKilHalts : Prop :=
  ∀ (s t : State), s.halted = false → step s = .next t → t.halted = true →
    (s.busRead s.pc).1 ∈ kilOpcodes ∧ t.pc = s.pc + 1 ∧ t.cycles = s.cycles + s.cfg.kilCycles ∧
    s.SameAXYS t ∧ t.p = s.p ∧ t.mem = s.mem

/-- R27, R32: which instructions write C, I, D, B and V. Every instruction outside a flag's list leaves it
(the undocumented opcodes of R314 to R332 write flags as their rules say). -/
def Obligations.FlagsAreWrittenOnlyByTheirInstructions : Prop :=
  ∀ (i : Instr) (s t : State), exec i s = .next t →
    (t.p.b ≠ s.p.b → i = .plp ∨ i = .rti) ∧
    (t.p.d ≠ s.p.d → i = .plp ∨ i = .rti ∨ i = .cld ∨ i = .sed) ∧
    (t.p.i ≠ s.p.i → i = .plp ∨ i = .rti ∨ i = .cli ∨ i = .sei ∨ ∃ p, i = .brk p) ∧
    (t.p.v ≠ s.p.v → i = .plp ∨ i = .rti ∨ i = .clv ∨ (∃ v, i = .usbc v ∨ i = .arr v) ∨
      ∃ m, i = .adc m ∨ i = .sbc m ∨ i = .bit m ∨ i = .isc m ∨ i = .rra m) ∧
    (t.p.c ≠ s.p.c → i = .plp ∨ i = .rti ∨ i = .clc ∨ i = .sec ∨
      (∃ v, i = .usbc v ∨ i = .alr v ∨ i = .arr v ∨ i = .axs v ∨ ∃ op, i = .anc op v) ∨
      ∃ m, i = .adc m ∨ i = .sbc m ∨ i = .cmp m ∨ i = .cpx m ∨ i = .cpy m ∨ i = .asl m ∨ i = .lsr m ∨
        i = .rol m ∨ i = .ror m ∨ i = .slo m ∨ i = .isc m ∨ i = .rla m ∨ i = .sre m ∨ i = .rra m ∨ i = .dcp m)

/-- R25: SP is written only by pushes and pops, TXS and the interrupt sequences (and the undocumented LAS and
TAS, R326, R332). -/
def Obligations.StackPointerIsWrittenOnlyByItsInstructions : Prop :=
  ∀ (i : Instr) (s t : State), exec i s = .next t → t.sp ≠ s.sp →
    i ∈ [Instr.pha, .php, .pla, .plp, .rts, .rti, .txs] ∨ (∃ w, i = .jsr w ∨ i = .las w ∨ i = .tas w) ∨
      ∃ p, i = .brk p

/-! ### Interrupts -/

/-- R375: the interrupt entry. PC high, PC low and the status byte go to the stack in that order, I is set, PC is
the word at the vector, read after the pushes, low byte first; every other flag, A, X, Y, the counter and every
other byte of memory stay. -/
def Obligations.InterruptEntrySequence : Prop :=
  ∀ (vector : Word) (p : Byte) (s : State), s.Full → s.mem.wf = true →
    let t := s.interruptEntry vector p
    let a1 := stackAddr s.sp
    let a2 := stackAddr (s.sp - 1)
    let a3 := stackAddr (s.sp - 2)
    t.sp = s.sp - 3 ∧ t.p = { s.p with i := true } ∧ t.a = s.a ∧ t.x = s.x ∧ t.y = s.y ∧ t.cycles = s.cycles ∧
    s.SameRun t ∧ s.SameMemBut t [a1, a2, a3] ∧
    (s.inDev a1 = false → t.peek a1 = hiByte s.pc) ∧
    (s.inDev a2 = false → t.peek a2 = loByte s.pc) ∧
    (s.inDev a3 = false → t.peek a3 = p) ∧
    (s.inDev a1 = true → t.peek a1 = s.peek a1) ∧
    (s.inDev a2 = true → t.peek a2 = s.peek a2) ∧
    (s.inDev a3 = true → t.peek a3 = s.peek a3) ∧
    (s.Plain [vector, vector + 1] → t.pc = cat (t.peek (vector + 1)) (t.peek vector)) ∧
    t.bus = .read (vector + 1) (hiByte t.pc) :: .read vector (loByte t.pc) ::
      .write a3 p :: .write a2 (loByte s.pc) :: .write a1 (hiByte s.pc) :: s.bus

/-- R376, R377, R379: neither call has an effect while halted or faulted, nor `irq()` while masked, and it is
not remembered; else each is the interrupt entry with the status byte as it is, `irq()` at 0xFFFE and `nmi()` at
0xFFFA whatever I holds, and costs 7 cycles. -/
def Obligations.InterruptCalls : Prop :=
  ∀ (s : State),
    (s.halted = true ∨ s.fault ≠ none → irqCall s = .next s ∧ nmiCall s = .next s) ∧
    (s.p.i = true → irqCall s = .next s) ∧
    (s.halted = false → s.Ready →
      (s.p.i = false →
        irqCall s = .next { s.interruptEntry 0xFFFE s.statusByte with cycles := s.cycles + 7 }) ∧
      nmiCall s = .next { s.interruptEntry 0xFFFA s.statusByte with cycles := s.cycles + 7 })

/-- R292: BRK completes whatever I holds: the interrupt entry at 0xFFFE with bit 4 of the pushed status byte set;
the stored B stays; 7 cycles by the NMOS table. -/
def Obligations.BrkEntersTheHandler : Prop :=
  ∀ (pad op : Byte) (s : State), (Instr.brk pad).opcodeOf = some op → s.Ready →
    op = 0x00 ∧ nmosCycles op = 7 ∧
    exec (.brk pad) s = .next
      { s.interruptEntry 0xFFFE (s.statusByte ||| 0x10) with cycles := s.cycles + s.cfg.baseCyclesOf op }

/-- R293: RTI completes: a throwaway read at PC, then the status byte and PC are popped; all seven flags are
those of the popped byte; 6 cycles by the NMOS table. -/
def Obligations.RtiReturns : Prop :=
  ∀ (op : Byte) (s : State), Instr.rti.opcodeOf = some op → s.Ready →
    op = 0x40 ∧ nmosCycles op = 6 ∧
    ∃ t st lo hi, exec .rti s = .next t ∧
      t.p = Flags.ofByte st ∧ t.pc = cat hi lo ∧ t.sp = s.sp + 3 ∧ t.a = s.a ∧ t.x = s.x ∧ t.y = s.y ∧
      t.bus = .read (stackAddr (s.sp + 3)) hi :: .read (stackAddr (s.sp + 2)) lo ::
        .read (stackAddr (s.sp + 1)) st :: .read s.pc (s.busRead s.pc).1 :: s.bus ∧
      (s.inDev (stackAddr (s.sp + 1)) = false → st = s.peek (stackAddr (s.sp + 1))) ∧
      (s.inDev (stackAddr (s.sp + 2)) = false → lo = s.peek (stackAddr (s.sp + 2))) ∧
      (s.inDev (stackAddr (s.sp + 3)) = false → hi = s.peek (stackAddr (s.sp + 3))) ∧
      s.Charged t op 0 ∧ s.SameRun t ∧ s.SameMem t

/-- R382: BRK then RTI restores PC and the status byte with bit 4 set, and SP; A, X, Y are as before and memory
differs only in the three stack cells. RTI may stand anywhere: PC at its end is `q`. -/
def Obligations.BrkThenRtiRestores : Prop :=
  ∀ (pad : Byte) (q : Word) (s t u : State), s.Ready → s.mem.wf = true →
    s.Plain [stackAddr s.sp, stackAddr (s.sp - 1), stackAddr (s.sp - 2)] →
    exec (.brk pad) s = .next t → exec .rti { t with pc := q } = .next u →
    u.pc = s.pc ∧ u.p = { s.p with b := true } ∧ u.sp = s.sp ∧ u.a = s.a ∧ u.x = s.x ∧ u.y = s.y ∧
    s.SameMemBut u [stackAddr s.sp, stackAddr (s.sp - 1), stackAddr (s.sp - 2)]

/-! ### Addressing modes -/

/-- R102 to R107: the resolvers that read no pointer. The effective address, the page-cross flag, and no bus
event or other change. -/
def Obligations.DirectModesResolve : Prop :=
  ∀ (a : Byte) (w : Word) (s : State),
    ((s.resolve (.zp a)).1.ea.toNat = a.toNat ∧ (s.resolve (.zp a)).1.crossed = false) ∧
    ((s.resolve (.zpX a)).1.ea.toNat = (a.toNat + s.x.toNat) % 256 ∧ (s.resolve (.zpX a)).1.crossed = false) ∧
    ((s.resolve (.zpY a)).1.ea.toNat = (a.toNat + s.y.toNat) % 256 ∧ (s.resolve (.zpY a)).1.crossed = false) ∧
    ((s.resolve (.abs w)).1.ea = w ∧ (s.resolve (.abs w)).1.crossed = false) ∧
    ((s.resolve (.absX w)).1.ea.toNat = (w.toNat + s.x.toNat) % 65536 ∧
      (s.resolve (.absX w)).1.crossed = pageCross w (s.resolve (.absX w)).1.ea) ∧
    ((s.resolve (.absY w)).1.ea.toNat = (w.toNat + s.y.toNat) % 65536 ∧
      (s.resolve (.absY w)).1.crossed = pageCross w (s.resolve (.absY w)).1.ea) ∧
    ∀ m ∈ [Mode.zp a, .zpX a, .zpY a, .abs w, .absX w, .absY w], (s.resolve m).2 = s

/-- R108, R109, R110: the resolvers that read a pointer: the addresses of its two bytes, low byte first, JMP's
page wrap, the zero-page wrap at 0xFF by `zpPointerWrap`, and Y's index after the pointer. -/
def Obligations.PointerModesResolve : Prop :=
  ∀ (a : Byte) (w : Word) (s : State), s.Full →
    (∃ lo hi, (s.resolve (.ind w)).1.ea = cat hi lo ∧ (s.resolve (.ind w)).1.crossed = false ∧
      (s.resolve (.ind w)).2.bus =
        .read (if w.toNat % 256 = 255 then w - 255 else w + 1) hi :: .read w lo :: s.bus) ∧
    (∃ lo hi p, p.toNat = (a.toNat + s.x.toNat) % 256 ∧ (s.resolve (.izx a)).1.ea = cat hi lo ∧
      (s.resolve (.izx a)).1.crossed = false ∧
      (s.resolve (.izx a)).2.bus =
        .read (if p = 255 then (if s.cfg.zpPointerWrap then 0 else 256) else p + 1) hi :: .read p lo :: s.bus) ∧
    (∃ lo hi p, p.toNat = a.toNat ∧ (s.resolve (.izy a)).1.base = cat hi lo ∧
      (s.resolve (.izy a)).1.ea.toNat = ((cat hi lo).toNat + s.y.toNat) % 65536 ∧
      (s.resolve (.izy a)).1.crossed = pageCross (cat hi lo) (s.resolve (.izy a)).1.ea ∧
      (s.resolve (.izy a)).2.bus =
        .read (if p = 255 then (if s.cfg.zpPointerWrap then 0 else 256) else p + 1) hi :: .read p lo :: s.bus) ∧
    ∀ m ∈ [Mode.ind w, .izx a, .izy a], s.SameAXYS (s.resolve m).2 ∧ (s.resolve m).2.p = s.p ∧
      (s.resolve m).2.pc = s.pc ∧ s.SameRun (s.resolve m).2 ∧ s.SameMem (s.resolve m).2

/-- R114: bit 8 of the exclusive or tells whether the high bytes differ, for an index 0 to 255 and for a branch
displacement. -/
def Obligations.PageCrossIsAHighByteChange : Prop :=
  ∀ (base : Word) (k : Byte),
    pageCross base (base + zext16 k) = decide (hiByte base ≠ hiByte (base + zext16 k)) ∧
    pageCross base (base + sext16 k) = decide (hiByte base ≠ hiByte (base + sext16 k))

/-! ### Loads, stores, transfers -/

/-- R150, R151, R152: LDA, LDX and LDY complete in every form of theirs: the register takes the operand, N and Z
are of it, the other flags and registers stay; a page crossing costs one cycle more (R115). -/
def Obligations.LoadsComplete : Prop :=
  (∀ m, (Instr.lda m).forms = [(.IMM, 0xA9), (.ZP, 0xA5), (.ZPX, 0xB5), (.ABS, 0xAD), (.ABSX, 0xBD), (.ABSY, 0xB9),
      (.IZX, 0xA1), (.IZY, 0xB1)] ∧
    (Instr.ldx m).forms = [(.IMM, 0xA2), (.ZP, 0xA6), (.ZPY, 0xB6), (.ABS, 0xAE), (.ABSY, 0xBE)] ∧
    (Instr.ldy m).forms = [(.IMM, 0xA0), (.ZP, 0xA4), (.ZPX, 0xB4), (.ABS, 0xAC), (.ABSX, 0xBC)]) ∧
  ∀ (m : Mode) (op : Byte) (s : State), s.Ready →
    let v := (s.readOperand m).value
    ((Instr.lda m).opcodeOf = some op → ∃ t, exec (.lda m) s = .next t ∧ t.a = v ∧ s.SameXYS t ∧
      t.p = { s.p with n := v.getLsbD 7, z := decide (v = 0) } ∧ s.AfterRead t m op) ∧
    ((Instr.ldx m).opcodeOf = some op → ∃ t, exec (.ldx m) s = .next t ∧ t.x = v ∧ t.a = s.a ∧ t.y = s.y ∧
      t.sp = s.sp ∧ t.p = { s.p with n := v.getLsbD 7, z := decide (v = 0) } ∧ s.AfterRead t m op) ∧
    ((Instr.ldy m).opcodeOf = some op → ∃ t, exec (.ldy m) s = .next t ∧ t.y = v ∧ t.a = s.a ∧ t.x = s.x ∧
      t.sp = s.sp ∧ t.p = { s.p with n := v.getLsbD 7, z := decide (v = 0) } ∧ s.AfterRead t m op)

/-- R101, R116: the operand of a read-class instruction: the immediate byte with no further bus event, or the
byte that one read of the effective address answers, the cell's byte at a plain address. -/
def Obligations.OperandIsOneRead : Prop :=
  ∀ (m : Mode) (v : Byte) (s : State), s.Full →
    s.readOperand (.imm v) = ⟨v, false, s⟩ ∧
    (m.format ∈ [.ZP, .ZPX, .ZPY, .ABS, .ABSX, .ABSY, .IZX, .IZY] →
      let ea := (s.resolve m).1.ea
      (s.readOperand m).crossed = (s.resolve m).1.crossed ∧
      (s.readOperand m).st.bus = .read ea (s.readOperand m).value :: (s.resolve m).2.bus ∧
      (s.inDev ea = false → (s.readOperand m).value = s.peek ea) ∧
      (s.inDev ea = true → (s.readOperand m).value = Config.freeByte (s.resolve m).2.draws))

/-- R153, R154, R155: STA, STX and STY complete in every form of theirs: one write of the register to the
effective address, no flag, no register; a page crossing costs nothing but under `penaltyOnWrites`, then one cycle
(R115). -/
def Obligations.StoresComplete : Prop :=
  (∀ m, (Instr.sta m).forms = [(.ZP, 0x85), (.ZPX, 0x95), (.ABS, 0x8D), (.ABSX, 0x9D), (.ABSY, 0x99), (.IZX, 0x81),
      (.IZY, 0x91)] ∧
    (Instr.stx m).forms = [(.ZP, 0x86), (.ZPY, 0x96), (.ABS, 0x8E)] ∧
    (Instr.sty m).forms = [(.ZP, 0x84), (.ZPX, 0x94), (.ABS, 0x8C)]) ∧
  ∀ (m : Mode) (op : Byte) (s : State), s.Ready → s.mem.wf = true →
    ((Instr.sta m).opcodeOf = some op → ∃ t, exec (.sta m) s = .next t ∧ s.AfterStore t m op s.a) ∧
    ((Instr.stx m).opcodeOf = some op → ∃ t, exec (.stx m) s = .next t ∧ s.AfterStore t m op s.x) ∧
    ((Instr.sty m).opcodeOf = some op → ∃ t, exec (.sty m) s = .next t ∧ s.AfterStore t m op s.y)

/-- R156 to R161: the transfers complete: the destination takes the source; N and Z are of it, but for TXS, which
writes no flag. -/
def Obligations.TransfersComplete : Prop :=
  ∀ (op : Byte) (s : State), s.Ready →
    (Instr.tax.opcodeOf = some op → op = 0xAA ∧ ∃ t, exec .tax s = .next t ∧ t.x = s.a ∧ t.a = s.a ∧ t.y = s.y ∧
      t.sp = s.sp ∧ t.p = { s.p with n := s.a.getLsbD 7, z := decide (s.a = 0) } ∧ s.AfterImplied t op) ∧
    (Instr.tay.opcodeOf = some op → op = 0xA8 ∧ ∃ t, exec .tay s = .next t ∧ t.y = s.a ∧ t.a = s.a ∧ t.x = s.x ∧
      t.sp = s.sp ∧ t.p = { s.p with n := s.a.getLsbD 7, z := decide (s.a = 0) } ∧ s.AfterImplied t op) ∧
    (Instr.txa.opcodeOf = some op → op = 0x8A ∧ ∃ t, exec .txa s = .next t ∧ t.a = s.x ∧ s.SameXYS t ∧
      t.p = { s.p with n := s.x.getLsbD 7, z := decide (s.x = 0) } ∧ s.AfterImplied t op) ∧
    (Instr.tya.opcodeOf = some op → op = 0x98 ∧ ∃ t, exec .tya s = .next t ∧ t.a = s.y ∧ s.SameXYS t ∧
      t.p = { s.p with n := s.y.getLsbD 7, z := decide (s.y = 0) } ∧ s.AfterImplied t op) ∧
    (Instr.tsx.opcodeOf = some op → op = 0xBA ∧ ∃ t, exec .tsx s = .next t ∧ t.x = s.sp ∧ t.a = s.a ∧ t.y = s.y ∧
      t.sp = s.sp ∧ t.p = { s.p with n := s.sp.getLsbD 7, z := decide (s.sp = 0) } ∧ s.AfterImplied t op) ∧
    (Instr.txs.opcodeOf = some op → op = 0x9A ∧ ∃ t, exec .txs s = .next t ∧ t.sp = s.x ∧ t.a = s.a ∧ t.x = s.x ∧
      t.y = s.y ∧ t.p = s.p ∧ s.AfterImplied t op)

/-! ### Arithmetic and logic -/

/-- R183, R180: ADC completes in every form: A takes `A + operand + C` modulo 256, C is bit 8 of the exact sum, V
is set when the operands have like sign and the result the other, N and Z are of the result. -/
def Obligations.AdcCompletes : Prop :=
  (∀ m, (Instr.adc m).forms = [(.IMM, 0x69), (.ZP, 0x65), (.ZPX, 0x75), (.ABS, 0x6D), (.ABSX, 0x7D), (.ABSY, 0x79),
      (.IZX, 0x61), (.IZY, 0x71)]) ∧
  ∀ (m : Mode) (op : Byte) (s : State), (Instr.adc m).opcodeOf = some op → s.Ready →
    ∃ t, exec (.adc m) s = .next t ∧ s.Added t (s.readOperand m).value s.p.c ∧ s.SameXYS t ∧ s.AfterRead t m op

/-- R184, R181: SBC completes in every form: A takes `A - operand - (1 - C)` modulo 256, C is no borrow, V is set
when the operands have unlike sign and the result's differs from A's, N and Z are of the result. -/
def Obligations.SbcCompletes : Prop :=
  (∀ m, (Instr.sbc m).forms = [(.IMM, 0xE9), (.ZP, 0xE5), (.ZPX, 0xF5), (.ABS, 0xED), (.ABSX, 0xFD), (.ABSY, 0xF9),
      (.IZX, 0xE1), (.IZY, 0xF1)]) ∧
  ∀ (m : Mode) (op : Byte) (s : State), (Instr.sbc m).opcodeOf = some op → s.Ready →
    ∃ t, exec (.sbc m) s = .next t ∧ s.Subtracted t (s.readOperand m).value ∧ s.SameXYS t ∧ s.AfterRead t m op

/-- R198, R181: V after an addition or a subtraction tells that the signed result does not fit in a byte, and
subtracting is adding the complement: the same A and the same flags. -/
def Obligations.OverflowIsSignedAndSubIsAddOfComplement : Prop :=
  ∀ (m : Byte) (s : State),
    (s.addCore m).p.v = decide (s.a.toInt + m.toInt + s.p.c.toNat < -128 ∨
      127 < s.a.toInt + m.toInt + s.p.c.toNat) ∧
    (s.subCore m).p.v = decide (s.a.toInt - m.toInt - (1 - s.p.c.toNat) < -128 ∨
      127 < s.a.toInt - m.toInt - (1 - s.p.c.toNat)) ∧
    s.subCore m = s.addCore (m ^^^ 0xFF)

/-- R185, R186, R187: AND, ORA and EOR complete in every form: the bitwise result in A, N and Z of it, C and V
unchanged. -/
def Obligations.LogicCompletes : Prop :=
  (∀ m, (Instr.and m).forms = [(.IMM, 0x29), (.ZP, 0x25), (.ZPX, 0x35), (.ABS, 0x2D), (.ABSX, 0x3D), (.ABSY, 0x39),
      (.IZX, 0x21), (.IZY, 0x31)] ∧
    (Instr.ora m).forms = [(.IMM, 0x09), (.ZP, 0x05), (.ZPX, 0x15), (.ABS, 0x0D), (.ABSX, 0x1D), (.ABSY, 0x19),
      (.IZX, 0x01), (.IZY, 0x11)] ∧
    (Instr.eor m).forms = [(.IMM, 0x49), (.ZP, 0x45), (.ZPX, 0x55), (.ABS, 0x4D), (.ABSX, 0x5D), (.ABSY, 0x59),
      (.IZX, 0x41), (.IZY, 0x51)]) ∧
  ∀ (m : Mode) (op : Byte) (s : State), s.Ready →
    let v := (s.readOperand m).value
    ((Instr.and m).opcodeOf = some op → ∃ t, exec (.and m) s = .next t ∧ t.a = s.a &&& v ∧ s.SameXYS t ∧
      t.p = { s.p with n := t.a.getLsbD 7, z := decide (t.a = 0) } ∧ s.AfterRead t m op) ∧
    ((Instr.ora m).opcodeOf = some op → ∃ t, exec (.ora m) s = .next t ∧ t.a = s.a ||| v ∧ s.SameXYS t ∧
      t.p = { s.p with n := t.a.getLsbD 7, z := decide (t.a = 0) } ∧ s.AfterRead t m op) ∧
    ((Instr.eor m).opcodeOf = some op → ∃ t, exec (.eor m) s = .next t ∧ t.a = s.a ^^^ v ∧ s.SameXYS t ∧
      t.p = { s.p with n := t.a.getLsbD 7, z := decide (t.a = 0) } ∧ s.AfterRead t m op)

/-- R182, R188, R189, R190: CMP, CPX and CPY complete in every form: C tells that the register is not below the
operand, unsigned; Z that they are equal; N is bit 7 of the difference; C is not read; V and the registers
stay. -/
def Obligations.ComparesComplete : Prop :=
  (∀ m, (Instr.cmp m).forms = [(.IMM, 0xC9), (.ZP, 0xC5), (.ZPX, 0xD5), (.ABS, 0xCD), (.ABSX, 0xDD), (.ABSY, 0xD9),
      (.IZX, 0xC1), (.IZY, 0xD1)] ∧
    (Instr.cpx m).forms = [(.IMM, 0xE0), (.ZP, 0xE4), (.ABS, 0xEC)] ∧
    (Instr.cpy m).forms = [(.IMM, 0xC0), (.ZP, 0xC4), (.ABS, 0xCC)]) ∧
  ∀ (m : Mode) (op : Byte) (s : State), s.Ready →
    let v := (s.readOperand m).value
    ((Instr.cmp m).opcodeOf = some op → ∃ t, exec (.cmp m) s = .next t ∧ s.SameAXYS t ∧ s.AfterRead t m op ∧
      t.p = { s.p with c := decide (v.toNat ≤ s.a.toNat), z := decide (s.a = v), n := (s.a - v).getLsbD 7 }) ∧
    ((Instr.cpx m).opcodeOf = some op → ∃ t, exec (.cpx m) s = .next t ∧ s.SameAXYS t ∧ s.AfterRead t m op ∧
      t.p = { s.p with c := decide (v.toNat ≤ s.x.toNat), z := decide (s.x = v), n := (s.x - v).getLsbD 7 }) ∧
    ((Instr.cpy m).opcodeOf = some op → ∃ t, exec (.cpy m) s = .next t ∧ s.SameAXYS t ∧ s.AfterRead t m op ∧
      t.p = { s.p with c := decide (v.toNat ≤ s.y.toNat), z := decide (s.y = v), n := (s.y - v).getLsbD 7 })

/-- R191: BIT completes in both forms: Z of `A & operand`, N and V bits 7 and 6 of the operand, A and C stay. -/
def Obligations.BitCompletes : Prop :=
  (∀ m, (Instr.bit m).forms = [(.ZP, 0x24), (.ABS, 0x2C)]) ∧
  ∀ (m : Mode) (op : Byte) (s : State), (Instr.bit m).opcodeOf = some op → s.Ready →
    let v := (s.readOperand m).value
    ∃ t, exec (.bit m) s = .next t ∧ s.SameAXYS t ∧ s.AfterRead t m op ∧
      t.p = { s.p with z := decide (s.a &&& v = 0), n := v.getLsbD 7, v := v.getLsbD 6 }

/-- R192, R193, R117: INC and DEC complete in every form: the old value and then the old value plus or minus 1
are written; N and Z are of the new value; a page crossing costs nothing but under `penaltyOnWrites`, then one cycle
(R115). -/
def Obligations.IncDecCompletes : Prop :=
  (∀ m, (Instr.inc m).forms = [(.ZP, 0xE6), (.ZPX, 0xF6), (.ABS, 0xEE), (.ABSX, 0xFE)] ∧
    (Instr.dec m).forms = [(.ZP, 0xC6), (.ZPX, 0xD6), (.ABS, 0xCE), (.ABSX, 0xDE)]) ∧
  ∀ (m : Mode) (op : Byte) (s : State), s.Ready → s.mem.wf = true →
    ((Instr.inc m).opcodeOf = some op → ∃ t, ∃ v : Byte, v.toNat = ((s.rmwOld m).toNat + 1) % 256 ∧
      exec (.inc m) s = .next t ∧ t.a = s.a ∧ t.p = { s.p with n := v.getLsbD 7, z := decide (v = 0) } ∧
      s.AfterRmw t m op v) ∧
    ((Instr.dec m).opcodeOf = some op → ∃ t, ∃ v : Byte, v.toNat = ((s.rmwOld m).toNat + 255) % 256 ∧
      exec (.dec m) s = .next t ∧ t.a = s.a ∧ t.p = { s.p with n := v.getLsbD 7, z := decide (v = 0) } ∧
      s.AfterRmw t m op v)

/-- R194 to R197: INX, INY, DEX and DEY complete: the register wraps modulo 256, N and Z are of it. -/
def Obligations.IndexIncDecCompletes : Prop :=
  ∀ (op : Byte) (s : State), s.Ready →
    (Instr.inx.opcodeOf = some op → op = 0xE8 ∧ ∃ t, exec .inx s = .next t ∧
      t.x.toNat = (s.x.toNat + 1) % 256 ∧ t.a = s.a ∧ t.y = s.y ∧ t.sp = s.sp ∧
      t.p = { s.p with n := t.x.getLsbD 7, z := decide (t.x = 0) } ∧ s.AfterImplied t op) ∧
    (Instr.iny.opcodeOf = some op → op = 0xC8 ∧ ∃ t, exec .iny s = .next t ∧
      t.y.toNat = (s.y.toNat + 1) % 256 ∧ t.a = s.a ∧ t.x = s.x ∧ t.sp = s.sp ∧
      t.p = { s.p with n := t.y.getLsbD 7, z := decide (t.y = 0) } ∧ s.AfterImplied t op) ∧
    (Instr.dex.opcodeOf = some op → op = 0xCA ∧ ∃ t, exec .dex s = .next t ∧
      t.x.toNat = (s.x.toNat + 255) % 256 ∧ t.a = s.a ∧ t.y = s.y ∧ t.sp = s.sp ∧
      t.p = { s.p with n := t.x.getLsbD 7, z := decide (t.x = 0) } ∧ s.AfterImplied t op) ∧
    (Instr.dey.opcodeOf = some op → op = 0x88 ∧ ∃ t, exec .dey s = .next t ∧
      t.y.toNat = (s.y.toNat + 255) % 256 ∧ t.a = s.a ∧ t.x = s.x ∧ t.sp = s.sp ∧
      t.p = { s.p with n := t.y.getLsbD 7, z := decide (t.y = 0) } ∧ s.AfterImplied t op)

/-! ### Shifts and rotates -/

/-- R230, R231 to R234: ASL, LSR, ROL and ROR complete in every form: C is the bit shifted out, the rotates shift in the
old C, N and Z are of the result, V, I, D and B stay. The accumulator forms write A with no bus event; the memory forms
write the old value and then the shifted one (R117), and a page crossing costs them nothing but under
`penaltyOnWrites`, then one cycle (R115). -/
def Obligations.ShiftsComplete : Prop :=
  (∀ m, (Instr.asl m).forms = [(.ACC, 0x0A), (.ZP, 0x06), (.ZPX, 0x16), (.ABS, 0x0E), (.ABSX, 0x1E)] ∧
    (Instr.lsr m).forms = [(.ACC, 0x4A), (.ZP, 0x46), (.ZPX, 0x56), (.ABS, 0x4E), (.ABSX, 0x5E)] ∧
    (Instr.rol m).forms = [(.ACC, 0x2A), (.ZP, 0x26), (.ZPX, 0x36), (.ABS, 0x2E), (.ABSX, 0x3E)] ∧
    (Instr.ror m).forms = [(.ACC, 0x6A), (.ZP, 0x66), (.ZPX, 0x76), (.ABS, 0x6E), (.ABSX, 0x7E)]) ∧
  (∀ (op : Byte) (s : State), s.Ready →
    ((Instr.asl .acc).opcodeOf = some op → op = 0x0A ∧ ∃ t, exec (.asl .acc) s = .next t ∧
      t.a.toNat = s.a.toNat * 2 % 256 ∧ s.SameXYS t ∧ s.AfterImplied t op ∧
      t.p = { s.p with c := s.a.getLsbD 7, n := t.a.getLsbD 7, z := decide (t.a = 0) }) ∧
    ((Instr.lsr .acc).opcodeOf = some op → op = 0x4A ∧ ∃ t, exec (.lsr .acc) s = .next t ∧
      t.a.toNat = s.a.toNat / 2 ∧ s.SameXYS t ∧ s.AfterImplied t op ∧
      t.p = { s.p with c := s.a.getLsbD 0, n := false, z := decide (t.a = 0) }) ∧
    ((Instr.rol .acc).opcodeOf = some op → op = 0x2A ∧ ∃ t, exec (.rol .acc) s = .next t ∧
      t.a.toNat = s.a.toNat * 2 % 256 + s.p.c.toNat ∧ s.SameXYS t ∧ s.AfterImplied t op ∧
      t.p = { s.p with c := s.a.getLsbD 7, n := t.a.getLsbD 7, z := decide (t.a = 0) }) ∧
    ((Instr.ror .acc).opcodeOf = some op → op = 0x6A ∧ ∃ t, exec (.ror .acc) s = .next t ∧
      t.a.toNat = s.a.toNat / 2 + s.p.c.toNat * 128 ∧ s.SameXYS t ∧ s.AfterImplied t op ∧
      t.p = { s.p with c := s.a.getLsbD 0, n := s.p.c, z := decide (t.a = 0) })) ∧
  ∀ (m : Mode) (op : Byte) (s : State), m ≠ .acc → s.Ready → s.mem.wf = true →
    let old := s.rmwOld m
    ((Instr.asl m).opcodeOf = some op → ∃ t, ∃ v : Byte, v.toNat = old.toNat * 2 % 256 ∧ exec (.asl m) s = .next t ∧
      t.a = s.a ∧ s.AfterRmw t m op v ∧
      t.p = { s.p with c := old.getLsbD 7, n := v.getLsbD 7, z := decide (v = 0) }) ∧
    ((Instr.lsr m).opcodeOf = some op → ∃ t, ∃ v : Byte, v.toNat = old.toNat / 2 ∧ exec (.lsr m) s = .next t ∧
      t.a = s.a ∧ s.AfterRmw t m op v ∧
      t.p = { s.p with c := old.getLsbD 0, n := false, z := decide (v = 0) }) ∧
    ((Instr.rol m).opcodeOf = some op → ∃ t, ∃ v : Byte, v.toNat = old.toNat * 2 % 256 + s.p.c.toNat ∧
      exec (.rol m) s = .next t ∧ t.a = s.a ∧ s.AfterRmw t m op v ∧
      t.p = { s.p with c := old.getLsbD 7, n := v.getLsbD 7, z := decide (v = 0) }) ∧
    ((Instr.ror m).opcodeOf = some op → ∃ t, ∃ v : Byte, v.toNat = old.toNat / 2 + s.p.c.toNat * 128 ∧
      exec (.ror m) s = .next t ∧ t.a = s.a ∧ s.AfterRmw t m op v ∧
      t.p = { s.p with c := old.getLsbD 0, n := s.p.c, z := decide (v = 0) })

/-! ### Control flow -/

/-- R113, R250 to R258: the eight branches complete, taken and not taken. The target is the address after the
branch plus the sign-extended displacement; the base cost is 2 by the NMOS table, taken costs 1 cycle more, across a
page 2; nothing else changes. -/
def Obligations.BranchesComplete : Prop :=
  (∀ op ∈ [0x90, 0xB0, 0xF0, 0x30, 0xD0, 0x10, 0x50, 0x70], nmosCycles op = 2) ∧
  ∀ (d op : Byte) (s : State), s.Ready →
    let target := s.pc + BitVec.ofInt 16 d.toInt
    let after := fun (op : Byte) (cond : Bool) =>
      Host.Outcome.next (φ := Fault) (ρ := Refusal)
        { s with
          pc := if cond then target else s.pc
          cycles := s.cycles + (s.cfg.baseCyclesOf op +
            if cond then (if (s.pc ^^^ target).getLsbD 8 then 2 else 1) else 0) }
    ((Instr.bcc d).opcodeOf = some op → op = 0x90 ∧ exec (.bcc d) s = after op (s.p.c == false)) ∧
    ((Instr.bcs d).opcodeOf = some op → op = 0xB0 ∧ exec (.bcs d) s = after op (s.p.c == true)) ∧
    ((Instr.beq d).opcodeOf = some op → op = 0xF0 ∧ exec (.beq d) s = after op (s.p.z == true)) ∧
    ((Instr.bmi d).opcodeOf = some op → op = 0x30 ∧ exec (.bmi d) s = after op (s.p.n == true)) ∧
    ((Instr.bne d).opcodeOf = some op → op = 0xD0 ∧ exec (.bne d) s = after op (s.p.z == false)) ∧
    ((Instr.bpl d).opcodeOf = some op → op = 0x10 ∧ exec (.bpl d) s = after op (s.p.n == false)) ∧
    ((Instr.bvc d).opcodeOf = some op → op = 0x50 ∧ exec (.bvc d) s = after op (s.p.v == false)) ∧
    ((Instr.bvs d).opcodeOf = some op → op = 0x70 ∧ exec (.bvs d) s = after op (s.p.v == true))

/-- R259: JMP completes in both forms: PC takes the effective address; the indirect form's bus events are its
pointer reads; nothing else changes. -/
def Obligations.JmpCompletes : Prop :=
  (∀ m, (Instr.jmp m).forms = [(.ABS, 0x4C), (.IND, 0x6C)]) ∧
  ∀ (m : Mode) (op : Byte) (s : State), (Instr.jmp m).opcodeOf = some op → s.Ready →
    ∃ t, exec (.jmp m) s = .next t ∧ t.pc = (s.resolve m).1.ea ∧ s.SameAXYS t ∧ t.p = s.p ∧ s.Charged t op 0 ∧
      t.bus = (s.resolve m).2.bus ∧ t.draws = (s.resolve m).2.draws ∧ s.SameRun t ∧ s.SameMem t

/-- R260, R261: JSR and RTS complete. JSR pushes the address of its last byte, high byte first, and PC takes the
target; RTS reads at PC, discards, and PC takes the popped word plus 1. -/
def Obligations.JsrRtsComplete : Prop :=
  (∀ (w : Word) (op : Byte) (s : State), (Instr.jsr w).opcodeOf = some op → s.Ready → s.mem.wf = true →
    let a1 := stackAddr s.sp
    let a2 := stackAddr (s.sp - 1)
    op = 0x20 ∧
    ∃ t, exec (.jsr w) s = .next t ∧ t.pc = w ∧ t.sp = s.sp - 2 ∧ t.a = s.a ∧ t.x = s.x ∧ t.y = s.y ∧ t.p = s.p ∧
      (s.inDev a1 = false → t.peek a1 = hiByte (s.pc - 1)) ∧ (s.inDev a2 = false → t.peek a2 = loByte (s.pc - 1)) ∧
      (s.inDev a1 = true → t.peek a1 = s.peek a1) ∧ (s.inDev a2 = true → t.peek a2 = s.peek a2) ∧
      s.SameMemBut t [a1, a2] ∧
      t.bus = .write a2 (loByte (s.pc - 1)) :: .write a1 (hiByte (s.pc - 1)) :: s.bus ∧
      s.Charged t op 0 ∧ t.draws = s.draws ∧ s.SameRun t) ∧
  ∀ (op : Byte) (s : State), Instr.rts.opcodeOf = some op → s.Ready →
    op = 0x60 ∧
    ∃ t lo hi, exec .rts s = .next t ∧ t.pc = cat hi lo + 1 ∧ t.sp = s.sp + 2 ∧ t.a = s.a ∧ t.x = s.x ∧
      t.y = s.y ∧ t.p = s.p ∧
      t.bus = .read (stackAddr (s.sp + 2)) hi :: .read (stackAddr (s.sp + 1)) lo ::
        .read s.pc (s.busRead s.pc).1 :: s.bus ∧
      (s.inDev (stackAddr (s.sp + 1)) = false → lo = s.peek (stackAddr (s.sp + 1))) ∧
      (s.inDev (stackAddr (s.sp + 2)) = false → hi = s.peek (stackAddr (s.sp + 2))) ∧
      s.Charged t op 0 ∧ s.SameRun t ∧ s.SameMem t

/-- R260, R261: RTS after JSR continues after the JSR and restores the stack pointer, wherever RTS stands. -/
def Obligations.RtsAfterJsrContinuesAfterIt : Prop :=
  ∀ (w q : Word) (s t u : State), s.Ready → s.mem.wf = true →
    s.Plain [stackAddr s.sp, stackAddr (s.sp - 1)] →
    exec (.jsr w) s = .next t → exec .rts { t with pc := q } = .next u →
    u.pc = s.pc ∧ u.sp = s.sp ∧ u.a = s.a ∧ u.x = s.x ∧ u.y = s.y ∧ u.p = s.p

/-! ### Stack, flags, no operation, halt -/

/-- R280 to R283: PHA, PHP, PLA and PLP complete. PHP pushes the status byte with bit 4 set and keeps the stored
B; PLA sets N and Z; PLP loads all seven flags. -/
def Obligations.StackInstructionsComplete : Prop :=
  ∀ (op : Byte) (s : State), s.Ready → s.mem.wf = true →
    (Instr.pha.opcodeOf = some op → op = 0x48 ∧ ∃ t, exec .pha s = .next t ∧ s.AfterPush t op s.a) ∧
    (Instr.php.opcodeOf = some op → op = 0x08 ∧ ∃ t, exec .php s = .next t ∧
      s.AfterPush t op (s.statusByte ||| 0x10)) ∧
    (Instr.pla.opcodeOf = some op → op = 0x68 ∧ ∃ t, exec .pla s = .next t ∧ s.AfterPop t op t.a ∧
      t.p = { s.p with n := t.a.getLsbD 7, z := decide (t.a = 0) }) ∧
    (Instr.plp.opcodeOf = some op → op = 0x28 ∧ ∃ t v, exec .plp s = .next t ∧ s.AfterPop t op v ∧ t.a = s.a ∧
      t.p = { c := v.getLsbD 0, z := v.getLsbD 1, i := v.getLsbD 2, d := v.getLsbD 3, b := v.getLsbD 4,
              v := v.getLsbD 6, n := v.getLsbD 7 })

/-- R284 to R291: the flag instructions complete, each writing its one flag; NOP writes none. -/
def Obligations.FlagInstructionsComplete : Prop :=
  ∀ (op : Byte) (s : State), s.Ready →
    let after := fun (op : Byte) (p : Flags) =>
      Host.Outcome.next (φ := Fault) (ρ := Refusal)
        { s with p := p, cycles := s.cycles + s.cfg.baseCyclesOf op }
    (Instr.clc.opcodeOf = some op → op = 0x18 ∧ exec .clc s = after op { s.p with c := false }) ∧
    (Instr.cld.opcodeOf = some op → op = 0xD8 ∧ exec .cld s = after op { s.p with d := false }) ∧
    (Instr.cli.opcodeOf = some op → op = 0x58 ∧ exec .cli s = after op { s.p with i := false }) ∧
    (Instr.clv.opcodeOf = some op → op = 0xB8 ∧ exec .clv s = after op { s.p with v := false }) ∧
    (Instr.sec.opcodeOf = some op → op = 0x38 ∧ exec .sec s = after op { s.p with c := true }) ∧
    (Instr.sed.opcodeOf = some op → op = 0xF8 ∧ exec .sed s = after op { s.p with d := true }) ∧
    (Instr.sei.opcodeOf = some op → op = 0x78 ∧ exec .sei s = after op { s.p with i := true }) ∧
    (Instr.nop.opcodeOf = some op → op = 0xEA ∧ exec .nop s = after op s.p)

/-- R311, R134: each of the twelve KIL opcodes completes: the machine halts and `kilCycles` are charged; nothing
else changes. -/
def Obligations.KilCompletes : Prop :=
  ∀ (op : Byte) (s : State), op ∈ [0x02, 0x12, 0x22, 0x32, 0x42, 0x52, 0x62, 0x72, 0x92, 0xB2, 0xD2, 0xF2] →
    s.Ready →
    exec (.kil op) s = .next { s with halted := true, cycles := s.cycles + s.cfg.kilCycles }

/-! ### Undocumented opcodes -/

/-- R312, R313: SLO and ISC complete in every form: SLO writes the shifted byte and ORs it into A, ISC writes the
incremented byte and subtracts it from A. -/
def Obligations.SloIscComplete : Prop :=
  (∀ m, (Instr.slo m).forms = [(.ZP, 0x07), (.ZPX, 0x17), (.ABS, 0x0F), (.ABSX, 0x1F), (.ABSY, 0x1B), (.IZX, 0x03),
      (.IZY, 0x13)] ∧
    (Instr.isc m).forms = [(.ZP, 0xE7), (.ZPX, 0xF7), (.ABS, 0xEF), (.ABSX, 0xFF), (.ABSY, 0xFB), (.IZX, 0xE3),
      (.IZY, 0xF3)]) ∧
  ∀ (m : Mode) (op : Byte) (s : State), s.Ready → s.mem.wf = true →
    let old := s.rmwOld m
    ((Instr.slo m).opcodeOf = some op → ∃ t, ∃ v : Byte, v.toNat = old.toNat * 2 % 256 ∧ exec (.slo m) s = .next t ∧
      t.a = s.a ||| v ∧ s.AfterRmw t m op v ∧
      t.p = { s.p with c := old.getLsbD 7, n := t.a.getLsbD 7, z := decide (t.a = 0) }) ∧
    ((Instr.isc m).opcodeOf = some op → ∃ t, exec (.isc m) s = .next t ∧ s.AfterRmw t m op (old + 1) ∧
      s.Subtracted t (old + 1))

/-- R314 to R317: RLA, SRE, RRA and DCP complete in every form where they are populated: the rotated, shifted or
decremented byte is written and then ANDed, EORed, added or compared. -/
def Obligations.OptionalRmwComplete : Prop :=
  (∀ m, (Instr.rla m).forms = [(.ZP, 0x27), (.ZPX, 0x37), (.ABS, 0x2F), (.ABSX, 0x3F), (.ABSY, 0x3B), (.IZX, 0x23),
      (.IZY, 0x33)] ∧
    (Instr.sre m).forms = [(.ZP, 0x47), (.ZPX, 0x57), (.ABS, 0x4F), (.ABSX, 0x5F), (.ABSY, 0x5B), (.IZX, 0x43),
      (.IZY, 0x53)] ∧
    (Instr.rra m).forms = [(.ZP, 0x67), (.ZPX, 0x77), (.ABS, 0x6F), (.ABSX, 0x7F), (.ABSY, 0x7B), (.IZX, 0x63),
      (.IZY, 0x73)] ∧
    (Instr.dcp m).forms = [(.ZP, 0xC7), (.ZPX, 0xD7), (.ABS, 0xCF), (.ABSX, 0xDF), (.ABSY, 0xDB), (.IZX, 0xC3),
      (.IZY, 0xD3)]) ∧
  ∀ (m : Mode) (op : Byte) (s : State), op ∈ s.cfg.undocPopulated → s.Ready → s.mem.wf = true →
    let old := s.rmwOld m
    ((Instr.rla m).opcodeOf = some op → ∃ t, ∃ v : Byte, v.toNat = old.toNat * 2 % 256 + s.p.c.toNat ∧
      exec (.rla m) s = .next t ∧ t.a = s.a &&& v ∧ s.AfterRmw t m op v ∧
      t.p = { s.p with c := old.getLsbD 7, n := t.a.getLsbD 7, z := decide (t.a = 0) }) ∧
    ((Instr.sre m).opcodeOf = some op → ∃ t, ∃ v : Byte, v.toNat = old.toNat / 2 ∧ exec (.sre m) s = .next t ∧
      t.a = s.a ^^^ v ∧ s.AfterRmw t m op v ∧
      t.p = { s.p with c := old.getLsbD 0, n := t.a.getLsbD 7, z := decide (t.a = 0) }) ∧
    ((Instr.rra m).opcodeOf = some op → ∃ t, ∃ v : Byte, v.toNat = old.toNat / 2 + s.p.c.toNat * 128 ∧
      exec (.rra m) s = .next t ∧ s.AfterRmw t m op v ∧ s.Added t v (old.getLsbD 0)) ∧
    ((Instr.dcp m).opcodeOf = some op → ∃ t, exec (.dcp m) s = .next t ∧ t.a = s.a ∧
      s.AfterRmw t m op (old - 1) ∧
      t.p = { s.p with
        c := decide ((old - 1).toNat ≤ s.a.toNat)
        z := decide (s.a = old - 1)
        n := (s.a - (old - 1)).getLsbD 7 })

/-- R318, R319, R320: LAX, SAX and the undocumented NOPs complete in every form where they are populated: LAX
loads A and X, SAX stores `A & X`, a NOP reads its operand and discards it. -/
def Obligations.OptionalLoadsStoresNopsComplete : Prop :=
  (∀ m, (Instr.lax m).forms = [(.ZP, 0xA7), (.ZPY, 0xB7), (.ABS, 0xAF), (.ABSY, 0xBF), (.IZX, 0xA3), (.IZY, 0xB3)] ∧
    (Instr.sax m).forms = [(.ZP, 0x87), (.ZPY, 0x97), (.ABS, 0x8F), (.IZX, 0x83)]) ∧
  (∀ m op, (Instr.nopUndoc op m).opcodeOf = some op ↔
    (m.format, op) ∈ [(.IMP, 0x1A), (.IMP, 0x3A), (.IMP, 0x5A), (.IMP, 0x7A), (.IMP, 0xDA), (.IMP, 0xFA),
      (.IMM, 0x80), (.IMM, 0x82), (.IMM, 0x89), (.IMM, 0xC2), (.IMM, 0xE2), (.ZP, 0x04), (.ZP, 0x44), (.ZP, 0x64),
      (.ZPX, 0x14), (.ZPX, 0x34), (.ZPX, 0x54), (.ZPX, 0x74), (.ZPX, 0xD4), (.ZPX, 0xF4), (.ABS, 0x0C),
      (.ABSX, 0x1C), (.ABSX, 0x3C), (.ABSX, 0x5C), (.ABSX, 0x7C), (.ABSX, 0xDC), (.ABSX, 0xFC)]) ∧
  ∀ (m : Mode) (op : Byte) (s : State), op ∈ s.cfg.undocPopulated → s.Ready → s.mem.wf = true →
    let v := (s.readOperand m).value
    ((Instr.lax m).opcodeOf = some op → ∃ t, exec (.lax m) s = .next t ∧ t.a = v ∧ t.x = v ∧ t.y = s.y ∧
      t.sp = s.sp ∧ t.p = { s.p with n := v.getLsbD 7, z := decide (v = 0) } ∧ s.AfterRead t m op) ∧
    ((Instr.sax m).opcodeOf = some op → ∃ t, exec (.sax m) s = .next t ∧ s.AfterStore t m op (s.a &&& s.x)) ∧
    ((Instr.nopUndoc op m).opcodeOf = some op → ∃ t, exec (.nopUndoc op m) s = .next t ∧ s.SameAXYS t ∧
      t.p = s.p ∧ s.AfterRead t m op)

/-- R321 to R325: the optional immediate instructions complete where they are populated. -/
def Obligations.OptionalImmediatesComplete : Prop :=
  (∀ v op, (Instr.usbc v).forms = [(.IMM, 0xEB)] ∧ (Instr.alr v).forms = [(.IMM, 0x4B)] ∧
    (Instr.arr v).forms = [(.IMM, 0x6B)] ∧ (Instr.axs v).forms = [(.IMM, 0xCB)] ∧
    ((Instr.anc op v).opcodeOf = some op ↔ op = 0x0B ∨ op = 0x2B)) ∧
  ∀ (v op : Byte) (s : State), op ∈ s.cfg.undocPopulated → s.Ready →
    ((Instr.usbc v).opcodeOf = some op → ∃ t, exec (.usbc v) s = .next t ∧ s.SameXYS t ∧ s.AfterImplied t op ∧
      s.Subtracted t v) ∧
    ((Instr.anc op v).opcodeOf = some op → ∃ t, exec (.anc op v) s = .next t ∧ s.SameXYS t ∧ s.AfterImplied t op ∧
      t.a = s.a &&& v ∧
      t.p = { s.p with n := t.a.getLsbD 7, z := decide (t.a = 0), c := t.a.getLsbD 7 }) ∧
    ((Instr.alr v).opcodeOf = some op → ∃ t, exec (.alr v) s = .next t ∧ s.SameXYS t ∧ s.AfterImplied t op ∧
      t.a.toNat = (s.a &&& v).toNat / 2 ∧
      t.p = { s.p with n := false, z := decide (t.a = 0), c := (s.a &&& v).getLsbD 0 }) ∧
    ((Instr.arr v).opcodeOf = some op → ∃ t, exec (.arr v) s = .next t ∧ s.SameXYS t ∧ s.AfterImplied t op ∧
      t.a.toNat = (s.a &&& v).toNat / 2 + s.p.c.toNat * 128 ∧
      t.p = { s.p with
        n := t.a.getLsbD 7, z := decide (t.a = 0), c := t.a.getLsbD 6, v := t.a.getLsbD 6 ^^ t.a.getLsbD 5 }) ∧
    ((Instr.axs v).opcodeOf = some op → ∃ t, exec (.axs v) s = .next t ∧ t.a = s.a ∧ t.y = s.y ∧ t.sp = s.sp ∧
      s.AfterImplied t op ∧ t.x = (s.a &&& s.x) - v ∧
      t.p = { s.p with
        n := t.x.getLsbD 7, z := decide (t.x = 0), c := decide (v.toNat ≤ (s.a &&& s.x).toNat) })

/-- R326, R327, R328: LAS, XAA and LXA complete where they are populated; the unstable byte `k` of XAA and LXA is
a free draw (log entry 5), and every other effect is computed from it. -/
def Obligations.LasXaaLxaComplete : Prop :=
  (∀ w v, (Instr.las w).forms = [(.ABSY, 0xBB)] ∧ (Instr.xaa v).forms = [(.IMM, 0x8B)] ∧
    (Instr.lxa v).forms = [(.IMM, 0xAB)]) ∧
  ∀ (w : Word) (v op : Byte) (s : State), op ∈ s.cfg.undocPopulated → s.Ready →
    let k := Config.freeByte s.draws
    ((Instr.las w).opcodeOf = some op → ∃ t, exec (.las w) s = .next t ∧
      t.a = (s.readOperand (.absY w)).value &&& s.sp ∧ t.x = t.a ∧ t.sp = t.a ∧ t.y = s.y ∧
      t.p = { s.p with n := t.a.getLsbD 7, z := decide (t.a = 0) } ∧ s.AfterRead t (.absY w) op) ∧
    ((Instr.xaa v).opcodeOf = some op → ∃ t, exec (.xaa v) s = .next t ∧ t.a = (s.a ||| k) &&& s.x &&& v ∧
      s.SameXYS t ∧ t.p = { s.p with n := t.a.getLsbD 7, z := decide (t.a = 0) } ∧ t.draws = s.draws + 1 ∧
      t.pc = s.pc ∧ s.Charged t op 0 ∧ t.bus = s.bus ∧ s.SameRun t ∧ s.SameMem t) ∧
    ((Instr.lxa v).opcodeOf = some op → ∃ t, exec (.lxa v) s = .next t ∧ t.a = (s.a ||| k) &&& v ∧ t.x = t.a ∧
      t.y = s.y ∧ t.sp = s.sp ∧ t.p = { s.p with n := t.a.getLsbD 7, z := decide (t.a = 0) } ∧
      t.draws = s.draws + 1 ∧ t.pc = s.pc ∧ s.Charged t op 0 ∧ t.bus = s.bus ∧ s.SameRun t ∧ s.SameMem t)

/-- R329 to R332: AHX, SHY, SHX and TAS complete where they are populated. Without a page crossing the value AND
the base's high byte plus 1 is written to the effective address; across a page, a free byte to a free address
(log entry 5). TAS writes SP in both cases. -/
def Obligations.UnstableStoresComplete : Prop :=
  (∀ m w, (Instr.ahx m).forms = [(.IZY, 0x93), (.ABSY, 0x9F)] ∧ (Instr.shy w).forms = [(.ABSX, 0x9C)] ∧
    (Instr.shx w).forms = [(.ABSY, 0x9E)] ∧ (Instr.tas w).forms = [(.ABSY, 0x9B)]) ∧
  ∀ (m : Mode) (w : Word) (op : Byte) (s : State), op ∈ s.cfg.undocPopulated → s.Ready → s.mem.wf = true →
    let wrote := fun (m : Mode) (v : Byte) (t : State) =>
      let r := s.resolve m
      let h := hiByte r.1.base + 1
      let a := if r.1.crossed then Config.freeWord r.2.draws else r.1.ea
      let b := if r.1.crossed then Config.freeByte (r.2.draws + 1) else v &&& h
      s.Stored t a b ∧ t.bus = .write a b :: r.2.bus ∧ t.a = s.a ∧ t.x = s.x ∧ t.y = s.y ∧ t.p = s.p ∧
      t.pc = s.pc ∧ s.Charged t op (if r.1.crossed ∧ s.cfg.penaltyOnWrites then 1 else 0) ∧ s.SameRun t ∧
      t.draws = if r.1.crossed then r.2.draws + 2 else r.2.draws
    ((Instr.ahx m).opcodeOf = some op → ∃ t, exec (.ahx m) s = .next t ∧ wrote m (s.a &&& s.x) t ∧ t.sp = s.sp) ∧
    ((Instr.shy w).opcodeOf = some op → ∃ t, exec (.shy w) s = .next t ∧ wrote (.absX w) s.y t ∧ t.sp = s.sp) ∧
    ((Instr.shx w).opcodeOf = some op → ∃ t, exec (.shx w) s = .next t ∧ wrote (.absY w) s.x t ∧ t.sp = s.sp) ∧
    ((Instr.tas w).opcodeOf = some op → ∃ t, exec (.tas w) s = .next t ∧ wrote (.absY w) (s.a &&& s.x) t ∧
      t.sp = s.a &&& s.x)

/-! ### The host's calls -/

/-- R138, R139, R141, R144: `execute(n)` on a running machine takes steps, each below the deadline and not halted,
none for `n = 0`; it ends by reaching its deadline, by halting, or by a failure; without a failure it returns the
cycles charged. Under a base cycle table R144 admits its bound of steps (log entry 14) never ends it, and with a cell
for every address it answers. -/
def Obligations.ExecuteRunsToItsDeadline : Prop :=
  ∀ (n : Nat) (s : State), s.halted = false → s.fault = none →
    (∀ t r, executeCall n s = .next (t, r) →
      RunsBelow (s.cycles + n) s t ∧ s.cycles ≤ t.cycles ∧
      (r = if t.fault = none then some (t.cycles - s.cycles) else none) ∧
      (t.fault = none → t.halted = true ∨ s.cycles + n ≤ t.cycles)) ∧
    (n = 0 → executeCall n s = .next (s, some 0)) ∧
    (s.cfg.wellFormed = true → executeCall n s ≠ .fault .budgetNotReached) ∧
    (s.cfg.wellFormed = true → s.Full → ∃ t r, executeCall n s = .next (t, r))

/-- R373, R28, R29: the flag accessor answers the bit of the status byte at the index, and fails for 5 and for
every index outside 0 to 7; `setStatusByte` then `getStatusByte` gives the byte back with bit 5 as the parameter
says. -/
def Obligations.FlagAccessors : Prop :=
  ∀ (i : Int) (b : Byte) (s : State),
    (0 ≤ i ∧ i ≤ 7 ∧ i ≠ 5 → getFlag i s = .ok (s.statusByte.getLsbD i.toNat)) ∧
    (i < 0 ∨ 7 < i ∨ i = 5 → getFlag i s = .error (.invalidFlagIndex i)) ∧
    getStatusByte (setStatusByte b s) = (b &&& 0xDF) ||| (if s.cfg.bit5Value then 0x20 else 0x00)

/-- R51, R53, R61: after `loadImage` every cell holds the image's byte, the size is the image's, no address has a
custom handler, and no register has changed; installing a handler makes its address, and no other, a device; the
safe read answers the cell below `memSize`. -/
def Obligations.ImagesHandlersAndTheSafeRead : Prop :=
  ∀ (image : List Byte) (a b : Word) (s : State),
    let t := loadImage image s
    (a.toNat < image.length → t.peek a = image.getD a.toNat 0) ∧ t.memSize = image.length ∧ t.inDev a = false ∧
    s.SameAXYS t ∧ t.pc = s.pc ∧ t.p = s.p ∧
    (installReadHandler a s).inDev b = (decide (b = a) || s.inDev b) ∧
    (installWriteHandler a s).inDev b = (decide (b = a) || s.inDev b) ∧
    (a.toNat < s.memSize → safeRead a s = s.peek a)

/-- R54, R57, R58, R59, R60, R72: a write then a read of a plain address gives the byte written; a word written
reads back, low byte at the lower address, the address after 0xFFFF being 0x0000; a read of a device answers a
draw and a write of it changes no cell, each with one bus event. -/
def Obligations.BusReadsBackWhatItWrote : Prop :=
  ∀ (a : Word) (v : Byte) (w : Word) (s : State), s.Full → s.mem.wf = true →
    (s.inDev a = false → ((s.busWrite a v).busRead a).1 = v) ∧
    (s.Plain [a, a + 1] →
      ((s.writeWord a w).readWord a).1 = w ∧ (s.writeWord a w).peek a = loByte w ∧
      (s.writeWord a w).peek (a + 1) = hiByte w) ∧
    (s.inDev a = true → (s.busRead a).1 = Config.freeByte s.draws ∧ s.SameMem (s.busWrite a v)) ∧
    (s.busRead a).2.bus = .read a (s.busRead a).1 :: s.bus ∧ (s.busWrite a v).bus = .write a v :: s.bus
end

