-- ==== Sys2Proof/Laws/Memory.lean ====
section
/-! SUPPORT. The laws of the backing store: a read after a write, the canonical form kept by every operation,
and the list of custom-handler addresses. -/

namespace Sys2Proof.Machine

theorem Memory.read_put_same (a : Nat) (v : Byte) (m : Memory) (h : v = Memory.unlisted → m.read a = v) :
    (Memory.put a v m).read a = v := by
  unfold Memory.put
  split
  · exact h ‹_›
  · simp [Memory.read]

theorem Memory.read_put_other {a b : Nat} (hab : a ≠ b) (v : Byte) (m : Memory) :
    (Memory.put a v m).read b = m.read b := by
  unfold Memory.put
  split <;> simp [Memory.read, hab]

/-- Canonical from `lo` on is canonical from any lower address on. -/
theorem Memory.wfFrom_mono {lo lo' : Nat} (h : lo' ≤ lo) : ∀ {m : Memory}, m.wfFrom lo = true → m.wfFrom lo' = true
  | [], _ => rfl
  | (k, v) :: rest, hm => by
    simp only [Memory.wfFrom, Bool.and_eq_true, decide_eq_true_eq] at hm ⊢
    exact ⟨⟨⟨by omega, hm.1.1.2⟩, hm.1.2⟩, hm.2⟩

/-- Below its first address a canonical memory lists nothing. -/
theorem Memory.read_below {lo a : Nat} (h : a < lo) : ∀ {m : Memory}, m.wfFrom lo = true → m.read a = Memory.unlisted
  | [], _ => rfl
  | (k, v) :: rest, hm => by
    simp only [Memory.wfFrom, Bool.and_eq_true, decide_eq_true_eq] at hm
    have hk : k ≠ a := by omega
    simp only [Memory.read, hk, if_false]
    exact Memory.read_below (by omega) hm.2

theorem Memory.put_wfFrom {lo a : Nat} (hl : lo ≤ a) (ha : a < 65536) {v : Byte} {m : Memory}
    (hm : m.wfFrom (a + 1) = true) : (Memory.put a v m).wfFrom lo = true := by
  unfold Memory.put
  split
  · exact Memory.wfFrom_mono (by omega) hm
  · simp [Memory.wfFrom, *]

/-- A write keeps the canonical form. -/
theorem Memory.write_wfFrom {a : Nat} (ha : a < 65536) (v : Byte) :
    ∀ {lo : Nat} {m : Memory}, lo ≤ a → m.wfFrom lo = true → (m.write a v).wfFrom lo = true
  | lo, [], hl, _ => Memory.put_wfFrom hl ha rfl
  | lo, (k, w) :: rest, hl, hm => by
    simp only [Memory.wfFrom, Bool.and_eq_true, decide_eq_true_eq] at hm
    unfold Memory.write
    split
    · refine Memory.put_wfFrom hl ha ?_
      simp only [Memory.wfFrom, Bool.and_eq_true, decide_eq_true_eq]
      exact ⟨⟨⟨by omega, hm.1.1.2⟩, hm.1.2⟩, hm.2⟩
    · split
      · exact Memory.put_wfFrom hl ha (by subst_vars; exact hm.2)
      · have h := Memory.write_wfFrom ha v (lo := k + 1) (by omega) hm.2
        simp only [Memory.wfFrom, Bool.and_eq_true, decide_eq_true_eq]
        exact ⟨⟨⟨hm.1.1.1, hm.1.1.2⟩, hm.1.2⟩, h⟩

/-- A write keeps the canonical form. -/
theorem Memory.write_wf {m : Memory} (hm : m.wf = true) {a : Nat} (ha : a < 65536) (v : Byte) :
    (m.write a v).wf = true :=
  Memory.write_wfFrom ha v (Nat.zero_le a) hm

/-- A read of the written address gives the value written, in a canonical memory. -/
theorem Memory.read_write_same {a : Nat} (v : Byte) :
    ∀ {lo : Nat} {m : Memory}, m.wfFrom lo = true → (m.write a v).read a = v
  | _, [], _ => Memory.read_put_same a v [] (fun h => by rw [h]; rfl)
  | _, (k, w) :: rest, hm => by
    have hr := hm
    simp only [Memory.wfFrom, Bool.and_eq_true, decide_eq_true_eq] at hr
    unfold Memory.write
    split
    · refine Memory.read_put_same a v _ (fun h => ?_)
      have hk : k ≠ a := by omega
      simp only [Memory.read, hk, if_false]
      rw [h]
      exact Memory.read_below (by omega) hr.2
    · split
      · refine Memory.read_put_same a v _ (fun h => ?_)
        rw [h]
        exact Memory.read_below (by omega) hr.2
      · have hk : k ≠ a := by omega
        simp only [Memory.read, hk, if_false]
        exact Memory.read_write_same v hr.2

/-- A write leaves every other address alone. -/
theorem Memory.read_write_other {a b : Nat} (hab : a ≠ b) (v : Byte) :
    ∀ m : Memory, (m.write a v).read b = m.read b
  | [] => Memory.read_put_other hab v []
  | (k, w) :: rest => by
    unfold Memory.write
    split
    · exact Memory.read_put_other hab v _
    · split
      · rw [Memory.read_put_other hab]
        have hk : k ≠ b := by omega
        simp [Memory.read, hk]
      · simp only [Memory.read]
        split
        · rfl
        · exact Memory.read_write_other hab v rest

/-- Writing a byte that is there already changes no read. -/
theorem Memory.read_write {m : Memory} (hm : m.wf = true) (a b : Nat) (v : Byte) :
    (m.write a v).read b = if a = b then v else m.read b := by
  split
  · subst_vars; exact Memory.read_write_same v hm
  · exact Memory.read_write_other ‹_› v m

/-- Canonical memories that read alike are equal. -/
theorem Memory.ext_read : ∀ {lo : Nat} {m m' : Memory}, m.wfFrom lo = true → m'.wfFrom lo = true →
    (∀ a, m.read a = m'.read a) → m = m'
  | _, [], [], _, _, _ => rfl
  | _, [], (k, v) :: rest, _, h', hr => by
    simp only [Memory.wfFrom, Bool.and_eq_true, decide_eq_true_eq] at h'
    have := hr k
    simp [Memory.read] at this
    exact absurd this.symm h'.1.2
  | _, (k, v) :: rest, [], h, _, hr => by
    simp only [Memory.wfFrom, Bool.and_eq_true, decide_eq_true_eq] at h
    have := hr k
    simp [Memory.read] at this
    exact absurd this h.1.2
  | _, (k, v) :: rest, (k', v') :: rest', h, h', hr => by
    simp only [Memory.wfFrom, Bool.and_eq_true, decide_eq_true_eq] at h h'
    have hkk : k = k' := by
      by_contra hne
      rcases Nat.lt_or_gt_of_ne hne with hlt | hgt
      · have := hr k
        have hk : k' ≠ k := by omega
        simp only [Memory.read, hk, if_true, if_false] at this
        rw [Memory.read_below (by omega) h'.2] at this
        exact h.1.2 this
      · have := hr k'
        simp only [Memory.read, hne, if_true, if_false] at this
        rw [Memory.read_below (by omega) h.2] at this
        exact h'.1.2 this.symm
    subst hkk
    have hv : v = v' := by simpa [Memory.read] using hr k
    subst hv
    have : rest = rest' := Memory.ext_read h.2 h'.2 fun a => by
      by_cases hak : k = a
      · subst hak
        rw [Memory.read_below (by omega) h.2, Memory.read_below (by omega) h'.2]
      · simpa [Memory.read, hak] using hr a
    rw [this]

/-- The cells of an image are canonical. -/
theorem Memory.ofBytesFrom_wfFrom : ∀ (k : Nat) (image : List Byte), (Memory.ofBytesFrom k image).wfFrom k = true
  | _, [] => rfl
  | k, v :: rest => by
    unfold Memory.ofBytesFrom
    split
    · exact Memory.put_wfFrom (Nat.le_refl k) ‹_› (Memory.ofBytesFrom_wfFrom (k + 1) rest)
    · rfl

theorem Memory.ofBytes_wf (image : List Byte) : (Memory.ofBytes image).wf = true :=
  Memory.ofBytesFrom_wfFrom 0 image

/-- An image's cells read as its bytes. -/
theorem Memory.read_ofBytesFrom : ∀ (k : Nat) (image : List Byte) (j : Nat), k + j < 65536 →
    (Memory.ofBytesFrom k image).read (k + j) = image.getD j Memory.unlisted
  | _, [], _, _ => by simp [Memory.ofBytesFrom, Memory.read]
  | k, v :: rest, 0, h => by
    have hk : k < 65536 := by omega
    simp only [Memory.ofBytesFrom, hk, if_true, Nat.add_zero, List.getD_cons_zero]
    refine Memory.read_put_same k v _ (fun hv => ?_)
    rw [hv]
    exact Memory.read_below (Nat.lt_succ_self k) (Memory.ofBytesFrom_wfFrom (k + 1) rest)
  | k, v :: rest, j + 1, h => by
    have hk : k < 65536 := by omega
    simp only [Memory.ofBytesFrom, hk, if_true, List.getD_cons_succ]
    rw [Memory.read_put_other (by omega)]
    have := Memory.read_ofBytesFrom (k + 1) rest j (by omega)
    rwa [Nat.add_right_comm] at this

theorem Memory.read_ofBytes (image : List Byte) {a : Nat} (h : a < 65536) :
    (Memory.ofBytes image).read a = image.getD a Memory.unlisted := by
  simpa [Memory.ofBytes] using Memory.read_ofBytesFrom 0 image a (by omega)

/-! ### The custom-handler addresses -/

theorem devInsert_wfFrom {a : Nat} (ha : a < 65536) :
    ∀ {lo : Nat} {d : List Nat}, lo ≤ a → devWfFrom lo d = true → devWfFrom lo (devInsert a d) = true
  | lo, [], hl, _ => by simp [devInsert, devWfFrom, hl, ha]
  | lo, k :: rest, hl, hd => by
    simp only [devWfFrom, Bool.and_eq_true, decide_eq_true_eq] at hd
    unfold devInsert
    split
    · simp only [devWfFrom, Bool.and_eq_true, decide_eq_true_eq]
      exact ⟨⟨hl, ha⟩, ⟨by omega, hd.1.2⟩, hd.2⟩
    · split
      · simp only [devWfFrom, Bool.and_eq_true, decide_eq_true_eq]
        exact hd
      · have h := devInsert_wfFrom ha (lo := k + 1) (by omega) hd.2
        simp only [devWfFrom, Bool.and_eq_true, decide_eq_true_eq]
        exact ⟨⟨hd.1.1, hd.1.2⟩, h⟩

/-- Installing a handler keeps the list canonical. -/
theorem devInsert_wf {a : Nat} (ha : a < 65536) {d : List Nat} (hd : devWf d = true) :
    devWf (devInsert a d) = true :=
  devInsert_wfFrom ha (Nat.zero_le a) hd

/-- The list after an installation holds the address and those it held. -/
theorem mem_devInsert {a b : Nat} : ∀ {d : List Nat}, b ∈ devInsert a d ↔ b = a ∨ b ∈ d
  | [] => by simp [devInsert]
  | k :: rest => by
    unfold devInsert
    split
    · simp
    · split
      · subst_vars; simp
      · simp only [List.mem_cons, mem_devInsert (d := rest)]
        tauto

end Sys2Proof.Machine
end

