-- ==== Sys2Proof/Laws/State.lean ====
section
/-! SUPPORT. One law per field per named update of the state, true by `rfl`: later proofs unfold no record
update. -/

namespace Sys2Proof.Machine

section
variable (s : State) (b : Byte)

@[simp] theorem State.setStatus_a : (State.setStatus b s).a = s.a := rfl
@[simp] theorem State.setStatus_x : (State.setStatus b s).x = s.x := rfl
@[simp] theorem State.setStatus_y : (State.setStatus b s).y = s.y := rfl
@[simp] theorem State.setStatus_sp : (State.setStatus b s).sp = s.sp := rfl
@[simp] theorem State.setStatus_pc : (State.setStatus b s).pc = s.pc := rfl
@[simp] theorem State.setStatus_p : (State.setStatus b s).p = Flags.ofByte b := rfl
@[simp] theorem State.setStatus_cycles : (State.setStatus b s).cycles = s.cycles := rfl
@[simp] theorem State.setStatus_halted : (State.setStatus b s).halted = s.halted := rfl
@[simp] theorem State.setStatus_fault : (State.setStatus b s).fault = s.fault := rfl
@[simp] theorem State.setStatus_mem : (State.setStatus b s).mem = s.mem := rfl
@[simp] theorem State.setStatus_memSize : (State.setStatus b s).memSize = s.memSize := rfl
@[simp] theorem State.setStatus_dev : (State.setStatus b s).dev = s.dev := rfl
@[simp] theorem State.setStatus_bus : (State.setStatus b s).bus = s.bus := rfl
@[simp] theorem State.setStatus_draws : (State.setStatus b s).draws = s.draws := rfl
@[simp] theorem State.setStatus_cfg : (State.setStatus b s).cfg = s.cfg := rfl

end

section
variable (s : State) (v : Byte)

@[simp] theorem State.setNZ_a : (State.setNZ v s).a = s.a := rfl
@[simp] theorem State.setNZ_x : (State.setNZ v s).x = s.x := rfl
@[simp] theorem State.setNZ_y : (State.setNZ v s).y = s.y := rfl
@[simp] theorem State.setNZ_sp : (State.setNZ v s).sp = s.sp := rfl
@[simp] theorem State.setNZ_pc : (State.setNZ v s).pc = s.pc := rfl
@[simp] theorem State.setNZ_p : (State.setNZ v s).p = s.p.setNZ v := rfl
@[simp] theorem State.setNZ_cycles : (State.setNZ v s).cycles = s.cycles := rfl
@[simp] theorem State.setNZ_halted : (State.setNZ v s).halted = s.halted := rfl
@[simp] theorem State.setNZ_fault : (State.setNZ v s).fault = s.fault := rfl
@[simp] theorem State.setNZ_mem : (State.setNZ v s).mem = s.mem := rfl
@[simp] theorem State.setNZ_memSize : (State.setNZ v s).memSize = s.memSize := rfl
@[simp] theorem State.setNZ_dev : (State.setNZ v s).dev = s.dev := rfl
@[simp] theorem State.setNZ_bus : (State.setNZ v s).bus = s.bus := rfl
@[simp] theorem State.setNZ_draws : (State.setNZ v s).draws = s.draws := rfl
@[simp] theorem State.setNZ_cfg : (State.setNZ v s).cfg = s.cfg := rfl

end

section
variable (s : State) (v : Byte)

@[simp] theorem State.loadA_a : (State.loadA v s).a = v := rfl
@[simp] theorem State.loadA_x : (State.loadA v s).x = s.x := rfl
@[simp] theorem State.loadA_y : (State.loadA v s).y = s.y := rfl
@[simp] theorem State.loadA_sp : (State.loadA v s).sp = s.sp := rfl
@[simp] theorem State.loadA_pc : (State.loadA v s).pc = s.pc := rfl
@[simp] theorem State.loadA_p : (State.loadA v s).p = s.p.setNZ v := rfl
@[simp] theorem State.loadA_cycles : (State.loadA v s).cycles = s.cycles := rfl
@[simp] theorem State.loadA_halted : (State.loadA v s).halted = s.halted := rfl
@[simp] theorem State.loadA_fault : (State.loadA v s).fault = s.fault := rfl
@[simp] theorem State.loadA_mem : (State.loadA v s).mem = s.mem := rfl
@[simp] theorem State.loadA_memSize : (State.loadA v s).memSize = s.memSize := rfl
@[simp] theorem State.loadA_dev : (State.loadA v s).dev = s.dev := rfl
@[simp] theorem State.loadA_bus : (State.loadA v s).bus = s.bus := rfl
@[simp] theorem State.loadA_draws : (State.loadA v s).draws = s.draws := rfl
@[simp] theorem State.loadA_cfg : (State.loadA v s).cfg = s.cfg := rfl

end

section
variable (s : State) (v : Byte)

@[simp] theorem State.loadX_a : (State.loadX v s).a = s.a := rfl
@[simp] theorem State.loadX_x : (State.loadX v s).x = v := rfl
@[simp] theorem State.loadX_y : (State.loadX v s).y = s.y := rfl
@[simp] theorem State.loadX_sp : (State.loadX v s).sp = s.sp := rfl
@[simp] theorem State.loadX_pc : (State.loadX v s).pc = s.pc := rfl
@[simp] theorem State.loadX_p : (State.loadX v s).p = s.p.setNZ v := rfl
@[simp] theorem State.loadX_cycles : (State.loadX v s).cycles = s.cycles := rfl
@[simp] theorem State.loadX_halted : (State.loadX v s).halted = s.halted := rfl
@[simp] theorem State.loadX_fault : (State.loadX v s).fault = s.fault := rfl
@[simp] theorem State.loadX_mem : (State.loadX v s).mem = s.mem := rfl
@[simp] theorem State.loadX_memSize : (State.loadX v s).memSize = s.memSize := rfl
@[simp] theorem State.loadX_dev : (State.loadX v s).dev = s.dev := rfl
@[simp] theorem State.loadX_bus : (State.loadX v s).bus = s.bus := rfl
@[simp] theorem State.loadX_draws : (State.loadX v s).draws = s.draws := rfl
@[simp] theorem State.loadX_cfg : (State.loadX v s).cfg = s.cfg := rfl

end

section
variable (s : State) (v : Byte)

@[simp] theorem State.loadY_a : (State.loadY v s).a = s.a := rfl
@[simp] theorem State.loadY_x : (State.loadY v s).x = s.x := rfl
@[simp] theorem State.loadY_y : (State.loadY v s).y = v := rfl
@[simp] theorem State.loadY_sp : (State.loadY v s).sp = s.sp := rfl
@[simp] theorem State.loadY_pc : (State.loadY v s).pc = s.pc := rfl
@[simp] theorem State.loadY_p : (State.loadY v s).p = s.p.setNZ v := rfl
@[simp] theorem State.loadY_cycles : (State.loadY v s).cycles = s.cycles := rfl
@[simp] theorem State.loadY_halted : (State.loadY v s).halted = s.halted := rfl
@[simp] theorem State.loadY_fault : (State.loadY v s).fault = s.fault := rfl
@[simp] theorem State.loadY_mem : (State.loadY v s).mem = s.mem := rfl
@[simp] theorem State.loadY_memSize : (State.loadY v s).memSize = s.memSize := rfl
@[simp] theorem State.loadY_dev : (State.loadY v s).dev = s.dev := rfl
@[simp] theorem State.loadY_bus : (State.loadY v s).bus = s.bus := rfl
@[simp] theorem State.loadY_draws : (State.loadY v s).draws = s.draws := rfl
@[simp] theorem State.loadY_cfg : (State.loadY v s).cfg = s.cfg := rfl

end

section
variable (s : State) (m : Byte)

@[simp] theorem State.addCore_a : (State.addCore m s).a = addResult s.a m s.p.c := rfl
@[simp] theorem State.addCore_x : (State.addCore m s).x = s.x := rfl
@[simp] theorem State.addCore_y : (State.addCore m s).y = s.y := rfl
@[simp] theorem State.addCore_sp : (State.addCore m s).sp = s.sp := rfl
@[simp] theorem State.addCore_pc : (State.addCore m s).pc = s.pc := rfl
@[simp] theorem State.addCore_p : (State.addCore m s).p = s.p.afterAdd s.a m := rfl
@[simp] theorem State.addCore_cycles : (State.addCore m s).cycles = s.cycles := rfl
@[simp] theorem State.addCore_halted : (State.addCore m s).halted = s.halted := rfl
@[simp] theorem State.addCore_fault : (State.addCore m s).fault = s.fault := rfl
@[simp] theorem State.addCore_mem : (State.addCore m s).mem = s.mem := rfl
@[simp] theorem State.addCore_memSize : (State.addCore m s).memSize = s.memSize := rfl
@[simp] theorem State.addCore_dev : (State.addCore m s).dev = s.dev := rfl
@[simp] theorem State.addCore_bus : (State.addCore m s).bus = s.bus := rfl
@[simp] theorem State.addCore_draws : (State.addCore m s).draws = s.draws := rfl
@[simp] theorem State.addCore_cfg : (State.addCore m s).cfg = s.cfg := rfl

end

section
variable (s : State) (m : Byte)

@[simp] theorem State.subCore_a : (State.subCore m s).a = subResult s.a m s.p.c := rfl
@[simp] theorem State.subCore_x : (State.subCore m s).x = s.x := rfl
@[simp] theorem State.subCore_y : (State.subCore m s).y = s.y := rfl
@[simp] theorem State.subCore_sp : (State.subCore m s).sp = s.sp := rfl
@[simp] theorem State.subCore_pc : (State.subCore m s).pc = s.pc := rfl
@[simp] theorem State.subCore_p : (State.subCore m s).p = s.p.afterSub s.a m := rfl
@[simp] theorem State.subCore_cycles : (State.subCore m s).cycles = s.cycles := rfl
@[simp] theorem State.subCore_halted : (State.subCore m s).halted = s.halted := rfl
@[simp] theorem State.subCore_fault : (State.subCore m s).fault = s.fault := rfl
@[simp] theorem State.subCore_mem : (State.subCore m s).mem = s.mem := rfl
@[simp] theorem State.subCore_memSize : (State.subCore m s).memSize = s.memSize := rfl
@[simp] theorem State.subCore_dev : (State.subCore m s).dev = s.dev := rfl
@[simp] theorem State.subCore_bus : (State.subCore m s).bus = s.bus := rfl
@[simp] theorem State.subCore_draws : (State.subCore m s).draws = s.draws := rfl
@[simp] theorem State.subCore_cfg : (State.subCore m s).cfg = s.cfg := rfl

end

section
variable (s : State) (r m : Byte)

@[simp] theorem State.compare_a : (State.compare r m s).a = s.a := rfl
@[simp] theorem State.compare_x : (State.compare r m s).x = s.x := rfl
@[simp] theorem State.compare_y : (State.compare r m s).y = s.y := rfl
@[simp] theorem State.compare_sp : (State.compare r m s).sp = s.sp := rfl
@[simp] theorem State.compare_pc : (State.compare r m s).pc = s.pc := rfl
@[simp] theorem State.compare_p : (State.compare r m s).p = s.p.afterCompare r m := rfl
@[simp] theorem State.compare_cycles : (State.compare r m s).cycles = s.cycles := rfl
@[simp] theorem State.compare_halted : (State.compare r m s).halted = s.halted := rfl
@[simp] theorem State.compare_fault : (State.compare r m s).fault = s.fault := rfl
@[simp] theorem State.compare_mem : (State.compare r m s).mem = s.mem := rfl
@[simp] theorem State.compare_memSize : (State.compare r m s).memSize = s.memSize := rfl
@[simp] theorem State.compare_dev : (State.compare r m s).dev = s.dev := rfl
@[simp] theorem State.compare_bus : (State.compare r m s).bus = s.bus := rfl
@[simp] theorem State.compare_draws : (State.compare r m s).draws = s.draws := rfl
@[simp] theorem State.compare_cfg : (State.compare r m s).cfg = s.cfg := rfl

end

section
variable (s : State) (w : Word)

@[simp] theorem State.outOfRange_a : (State.outOfRange w s).a = s.a := rfl
@[simp] theorem State.outOfRange_x : (State.outOfRange w s).x = s.x := rfl
@[simp] theorem State.outOfRange_y : (State.outOfRange w s).y = s.y := rfl
@[simp] theorem State.outOfRange_sp : (State.outOfRange w s).sp = s.sp := rfl
@[simp] theorem State.outOfRange_pc : (State.outOfRange w s).pc = s.pc := rfl
@[simp] theorem State.outOfRange_p : (State.outOfRange w s).p = s.p := rfl
@[simp] theorem State.outOfRange_cycles : (State.outOfRange w s).cycles = s.cycles := rfl
@[simp] theorem State.outOfRange_halted : (State.outOfRange w s).halted = s.halted := rfl
@[simp] theorem State.outOfRange_fault : (State.outOfRange w s).fault = some (s.fault.getD (.busOutOfRange w)) := rfl
@[simp] theorem State.outOfRange_mem : (State.outOfRange w s).mem = s.mem := rfl
@[simp] theorem State.outOfRange_memSize : (State.outOfRange w s).memSize = s.memSize := rfl
@[simp] theorem State.outOfRange_dev : (State.outOfRange w s).dev = s.dev := rfl
@[simp] theorem State.outOfRange_bus : (State.outOfRange w s).bus = s.bus := rfl
@[simp] theorem State.outOfRange_draws : (State.outOfRange w s).draws = s.draws := rfl
@[simp] theorem State.outOfRange_cfg : (State.outOfRange w s).cfg = s.cfg := rfl

end

section
variable (s : State) (w : Word) (v : Byte)

@[simp] theorem State.poke_a : (State.poke w v s).a = s.a := rfl
@[simp] theorem State.poke_x : (State.poke w v s).x = s.x := rfl
@[simp] theorem State.poke_y : (State.poke w v s).y = s.y := rfl
@[simp] theorem State.poke_sp : (State.poke w v s).sp = s.sp := rfl
@[simp] theorem State.poke_pc : (State.poke w v s).pc = s.pc := rfl
@[simp] theorem State.poke_p : (State.poke w v s).p = s.p := rfl
@[simp] theorem State.poke_cycles : (State.poke w v s).cycles = s.cycles := rfl
@[simp] theorem State.poke_halted : (State.poke w v s).halted = s.halted := rfl
@[simp] theorem State.poke_fault : (State.poke w v s).fault = s.fault := rfl
@[simp] theorem State.poke_mem : (State.poke w v s).mem = s.mem.write w.toNat v := rfl
@[simp] theorem State.poke_memSize : (State.poke w v s).memSize = s.memSize := rfl
@[simp] theorem State.poke_dev : (State.poke w v s).dev = s.dev := rfl
@[simp] theorem State.poke_bus : (State.poke w v s).bus = s.bus := rfl
@[simp] theorem State.poke_draws : (State.poke w v s).draws = s.draws := rfl
@[simp] theorem State.poke_cfg : (State.poke w v s).cfg = s.cfg := rfl

end

end Sys2Proof.Machine
end

