-- ==== Sys2Proof/Laws/Bus.lean ====
section
/-! SUPPORT. What the bus and stack operations do: a closed form of each, the fields each leaves unchanged,
and that none records an access out of range where every address has a cell. -/

namespace Sys2Proof.Machine

/-! ### One read, one write -/

/-- The value a read answers. -/
theorem State.busRead_value (a : Word) (s : State) :
    (s.busRead a).1 = if s.inDev a then Config.freeByte s.draws else s.peek a := by
  unfold State.busRead
  split
  · rfl
  · split <;> rfl

/-- Everything a read does to the state. -/
theorem State.busRead_state (a : Word) (s : State) :
    (s.busRead a).2 =
      { s with
        draws := s.draws + if s.inDev a then 1 else 0
        bus := if s.reaches a then .read a (s.busRead a).1 :: s.bus else s.bus
        fault := if s.reaches a then s.fault else some (s.fault.getD (.busOutOfRange a)) } := by
  unfold State.busRead State.reaches
  by_cases hd : s.inDev a = true
  · simp [hd]
  · by_cases hm : a.toNat < s.memSize <;> simp [hd, hm, State.outOfRange]

/-- Everything a write does to the state. -/
theorem State.busWrite_state (a : Word) (v : Byte) (s : State) :
    s.busWrite a v =
      { s with
        mem := if !s.inDev a && decide (a.toNat < s.memSize) then s.mem.write a.toNat v else s.mem
        bus := if s.reaches a then .write a v :: s.bus else s.bus
        fault := if s.reaches a then s.fault else some (s.fault.getD (.busOutOfRange a)) } := by
  unfold State.busWrite State.reaches
  by_cases hd : s.inDev a = true
  · simp [hd]
  · by_cases hm : a.toNat < s.memSize <;> simp [hd, hm, State.outOfRange]

@[simp] theorem State.busRead_a (w : Word) (s : State) : (State.busRead w s).2.a = s.a := by rw [State.busRead_state]
@[simp] theorem State.busRead_x (w : Word) (s : State) : (State.busRead w s).2.x = s.x := by rw [State.busRead_state]
@[simp] theorem State.busRead_y (w : Word) (s : State) : (State.busRead w s).2.y = s.y := by rw [State.busRead_state]
@[simp] theorem State.busRead_sp (w : Word) (s : State) : (State.busRead w s).2.sp = s.sp := by rw [State.busRead_state]
@[simp] theorem State.busRead_pc (w : Word) (s : State) : (State.busRead w s).2.pc = s.pc := by rw [State.busRead_state]
@[simp] theorem State.busRead_p (w : Word) (s : State) : (State.busRead w s).2.p = s.p := by rw [State.busRead_state]
@[simp] theorem State.busRead_cycles (w : Word) (s : State) : (State.busRead w s).2.cycles = s.cycles := by rw [State.busRead_state]
@[simp] theorem State.busRead_halted (w : Word) (s : State) : (State.busRead w s).2.halted = s.halted := by rw [State.busRead_state]
@[simp] theorem State.busRead_mem (w : Word) (s : State) : (State.busRead w s).2.mem = s.mem := by rw [State.busRead_state]
@[simp] theorem State.busRead_memSize (w : Word) (s : State) : (State.busRead w s).2.memSize = s.memSize := by rw [State.busRead_state]
@[simp] theorem State.busRead_dev (w : Word) (s : State) : (State.busRead w s).2.dev = s.dev := by rw [State.busRead_state]
@[simp] theorem State.busRead_cfg (w : Word) (s : State) : (State.busRead w s).2.cfg = s.cfg := by rw [State.busRead_state]
@[simp] theorem State.busWrite_a (w : Word) (v : Byte) (s : State) : (State.busWrite w v s).a = s.a := by rw [State.busWrite_state]
@[simp] theorem State.busWrite_x (w : Word) (v : Byte) (s : State) : (State.busWrite w v s).x = s.x := by rw [State.busWrite_state]
@[simp] theorem State.busWrite_y (w : Word) (v : Byte) (s : State) : (State.busWrite w v s).y = s.y := by rw [State.busWrite_state]
@[simp] theorem State.busWrite_sp (w : Word) (v : Byte) (s : State) : (State.busWrite w v s).sp = s.sp := by rw [State.busWrite_state]
@[simp] theorem State.busWrite_pc (w : Word) (v : Byte) (s : State) : (State.busWrite w v s).pc = s.pc := by rw [State.busWrite_state]
@[simp] theorem State.busWrite_p (w : Word) (v : Byte) (s : State) : (State.busWrite w v s).p = s.p := by rw [State.busWrite_state]
@[simp] theorem State.busWrite_cycles (w : Word) (v : Byte) (s : State) : (State.busWrite w v s).cycles = s.cycles := by rw [State.busWrite_state]
@[simp] theorem State.busWrite_halted (w : Word) (v : Byte) (s : State) : (State.busWrite w v s).halted = s.halted := by rw [State.busWrite_state]
@[simp] theorem State.busWrite_memSize (w : Word) (v : Byte) (s : State) : (State.busWrite w v s).memSize = s.memSize := by rw [State.busWrite_state]
@[simp] theorem State.busWrite_dev (w : Word) (v : Byte) (s : State) : (State.busWrite w v s).dev = s.dev := by rw [State.busWrite_state]
@[simp] theorem State.busWrite_draws (w : Word) (v : Byte) (s : State) : (State.busWrite w v s).draws = s.draws := by rw [State.busWrite_state]
@[simp] theorem State.busWrite_cfg (w : Word) (v : Byte) (s : State) : (State.busWrite w v s).cfg = s.cfg := by rw [State.busWrite_state]

/-! ### Where every address has a cell -/

theorem State.Full.reaches {s : State} (h : s.Full) (a : Word) : s.reaches a = true := by
  have := a.isLt
  have hm : a.toNat < s.memSize := by unfold State.Full at h; omega
  simp [State.reaches, hm]

theorem State.Full.lt {s : State} (h : s.Full) (a : Word) : a.toNat < s.memSize := by
  have := a.isLt
  unfold State.Full at h
  omega

theorem State.Full.of_memSize {s t : State} (h : s.Full) (e : t.memSize = s.memSize) : t.Full := by
  unfold State.Full
  rw [e]
  exact h

theorem State.busRead_fault {s : State} (h : s.Full) (a : Word) : (s.busRead a).2.fault = s.fault := by
  rw [State.busRead_state]
  simp [h.reaches a]

theorem State.busRead_bus {s : State} (h : s.Full) (a : Word) :
    (s.busRead a).2.bus = .read a (s.busRead a).1 :: s.bus := by
  rw [State.busRead_state]
  simp [h.reaches a]

theorem State.busRead_draws (a : Word) (s : State) :
    (s.busRead a).2.draws = s.draws + if s.inDev a then 1 else 0 := by
  rw [State.busRead_state]

theorem State.busWrite_fault {s : State} (h : s.Full) (a : Word) (v : Byte) :
    (s.busWrite a v).fault = s.fault := by
  rw [State.busWrite_state]
  simp [h.reaches a]

theorem State.busWrite_bus {s : State} (h : s.Full) (a : Word) (v : Byte) :
    (s.busWrite a v).bus = .write a v :: s.bus := by
  rw [State.busWrite_state]
  simp [h.reaches a]

theorem State.busWrite_mem {s : State} (h : s.Full) (a : Word) (v : Byte) :
    (s.busWrite a v).mem = if s.inDev a then s.mem else s.mem.write a.toNat v := by
  rw [State.busWrite_state]
  by_cases hd : s.inDev a = true <;> simp [hd, h.lt a]

/-! ### Cells and handlers seen through the operations -/

theorem State.inDev_congr {s t : State} (h : t.dev = s.dev) (a : Word) : t.inDev a = s.inDev a := by
  simp [State.inDev, h]

theorem State.peek_congr {s t : State} (h : t.mem = s.mem) (a : Word) : t.peek a = s.peek a := by
  simp [State.peek, h]

/-- A plain address reads as its cell. -/
theorem State.busRead_plain {s : State} {a : Word} (h : s.inDev a = false) : (s.busRead a).1 = s.peek a := by
  simp [State.busRead_value, h]

/-- A write leaves every other cell alone, in any memory. -/
theorem State.peek_busWrite_other {a b : Word} (hab : b ≠ a) (v : Byte) (s : State) :
    (s.busWrite a v).peek b = s.peek b := by
  have hne : a.toNat ≠ b.toNat := fun e => hab (BitVec.eq_of_toNat_eq e.symm)
  rw [State.busWrite_state]
  unfold State.peek
  simp only
  split
  · exact Memory.read_write_other hne v s.mem
  · rfl

/-- A plain address holds the byte written, in a canonical memory. -/
theorem State.peek_busWrite_same {s : State} (h : s.Full) (hm : s.mem.wf = true) {a : Word}
    (hd : s.inDev a = false) (v : Byte) : (s.busWrite a v).peek a = v := by
  unfold State.peek
  rw [State.busWrite_mem h, hd]
  exact Memory.read_write_same v hm

/-- A custom handler's write changes no cell. -/
theorem State.peek_busWrite_dev {s : State} {a : Word} (hd : s.inDev a = true) (v : Byte) (b : Word) :
    (s.busWrite a v).peek b = s.peek b := by
  rw [State.busWrite_state]
  simp [State.peek, hd]

/-! ### Composites: the fields they leave unchanged -/

@[simp] theorem State.fetch8_a (s : State) : (State.fetch8 s).2.a = s.a := by simp [State.fetch8]
@[simp] theorem State.fetch8_x (s : State) : (State.fetch8 s).2.x = s.x := by simp [State.fetch8]
@[simp] theorem State.fetch8_y (s : State) : (State.fetch8 s).2.y = s.y := by simp [State.fetch8]
@[simp] theorem State.fetch8_sp (s : State) : (State.fetch8 s).2.sp = s.sp := by simp [State.fetch8]
@[simp] theorem State.fetch8_p (s : State) : (State.fetch8 s).2.p = s.p := by simp [State.fetch8]
@[simp] theorem State.fetch8_cycles (s : State) : (State.fetch8 s).2.cycles = s.cycles := by simp [State.fetch8]
@[simp] theorem State.fetch8_halted (s : State) : (State.fetch8 s).2.halted = s.halted := by simp [State.fetch8]
@[simp] theorem State.fetch8_mem (s : State) : (State.fetch8 s).2.mem = s.mem := by simp [State.fetch8]
@[simp] theorem State.fetch8_memSize (s : State) : (State.fetch8 s).2.memSize = s.memSize := by simp [State.fetch8]
@[simp] theorem State.fetch8_dev (s : State) : (State.fetch8 s).2.dev = s.dev := by simp [State.fetch8]
@[simp] theorem State.fetch8_cfg (s : State) : (State.fetch8 s).2.cfg = s.cfg := by simp [State.fetch8]

@[simp] theorem State.throwaway_a (s : State) : (State.throwaway s).a = s.a := by simp [State.throwaway]
@[simp] theorem State.throwaway_x (s : State) : (State.throwaway s).x = s.x := by simp [State.throwaway]
@[simp] theorem State.throwaway_y (s : State) : (State.throwaway s).y = s.y := by simp [State.throwaway]
@[simp] theorem State.throwaway_sp (s : State) : (State.throwaway s).sp = s.sp := by simp [State.throwaway]
@[simp] theorem State.throwaway_pc (s : State) : (State.throwaway s).pc = s.pc := by simp [State.throwaway]
@[simp] theorem State.throwaway_p (s : State) : (State.throwaway s).p = s.p := by simp [State.throwaway]
@[simp] theorem State.throwaway_cycles (s : State) : (State.throwaway s).cycles = s.cycles := by simp [State.throwaway]
@[simp] theorem State.throwaway_halted (s : State) : (State.throwaway s).halted = s.halted := by simp [State.throwaway]
@[simp] theorem State.throwaway_mem (s : State) : (State.throwaway s).mem = s.mem := by simp [State.throwaway]
@[simp] theorem State.throwaway_memSize (s : State) : (State.throwaway s).memSize = s.memSize := by simp [State.throwaway]
@[simp] theorem State.throwaway_dev (s : State) : (State.throwaway s).dev = s.dev := by simp [State.throwaway]
@[simp] theorem State.throwaway_cfg (s : State) : (State.throwaway s).cfg = s.cfg := by simp [State.throwaway]

@[simp] theorem State.push_a (v : Byte) (s : State) : (State.push v s).a = s.a := by simp [State.push]
@[simp] theorem State.push_x (v : Byte) (s : State) : (State.push v s).x = s.x := by simp [State.push]
@[simp] theorem State.push_y (v : Byte) (s : State) : (State.push v s).y = s.y := by simp [State.push]
@[simp] theorem State.push_pc (v : Byte) (s : State) : (State.push v s).pc = s.pc := by simp [State.push]
@[simp] theorem State.push_p (v : Byte) (s : State) : (State.push v s).p = s.p := by simp [State.push]
@[simp] theorem State.push_cycles (v : Byte) (s : State) : (State.push v s).cycles = s.cycles := by simp [State.push]
@[simp] theorem State.push_halted (v : Byte) (s : State) : (State.push v s).halted = s.halted := by simp [State.push]
@[simp] theorem State.push_memSize (v : Byte) (s : State) : (State.push v s).memSize = s.memSize := by simp [State.push]
@[simp] theorem State.push_dev (v : Byte) (s : State) : (State.push v s).dev = s.dev := by simp [State.push]
@[simp] theorem State.push_draws (v : Byte) (s : State) : (State.push v s).draws = s.draws := by simp [State.push]
@[simp] theorem State.push_cfg (v : Byte) (s : State) : (State.push v s).cfg = s.cfg := by simp [State.push]

@[simp] theorem State.pop_a (s : State) : (State.pop s).2.a = s.a := by simp [State.pop]
@[simp] theorem State.pop_x (s : State) : (State.pop s).2.x = s.x := by simp [State.pop]
@[simp] theorem State.pop_y (s : State) : (State.pop s).2.y = s.y := by simp [State.pop]
@[simp] theorem State.pop_pc (s : State) : (State.pop s).2.pc = s.pc := by simp [State.pop]
@[simp] theorem State.pop_p (s : State) : (State.pop s).2.p = s.p := by simp [State.pop]
@[simp] theorem State.pop_cycles (s : State) : (State.pop s).2.cycles = s.cycles := by simp [State.pop]
@[simp] theorem State.pop_halted (s : State) : (State.pop s).2.halted = s.halted := by simp [State.pop]
@[simp] theorem State.pop_mem (s : State) : (State.pop s).2.mem = s.mem := by simp [State.pop]
@[simp] theorem State.pop_memSize (s : State) : (State.pop s).2.memSize = s.memSize := by simp [State.pop]
@[simp] theorem State.pop_dev (s : State) : (State.pop s).2.dev = s.dev := by simp [State.pop]
@[simp] theorem State.pop_cfg (s : State) : (State.pop s).2.cfg = s.cfg := by simp [State.pop]

@[simp] theorem State.readWord_a (w : Word) (s : State) : (State.readWord w s).2.a = s.a := by simp [State.readWord]
@[simp] theorem State.readWord_x (w : Word) (s : State) : (State.readWord w s).2.x = s.x := by simp [State.readWord]
@[simp] theorem State.readWord_y (w : Word) (s : State) : (State.readWord w s).2.y = s.y := by simp [State.readWord]
@[simp] theorem State.readWord_sp (w : Word) (s : State) : (State.readWord w s).2.sp = s.sp := by simp [State.readWord]
@[simp] theorem State.readWord_pc (w : Word) (s : State) : (State.readWord w s).2.pc = s.pc := by simp [State.readWord]
@[simp] theorem State.readWord_p (w : Word) (s : State) : (State.readWord w s).2.p = s.p := by simp [State.readWord]
@[simp] theorem State.readWord_cycles (w : Word) (s : State) : (State.readWord w s).2.cycles = s.cycles := by simp [State.readWord]
@[simp] theorem State.readWord_halted (w : Word) (s : State) : (State.readWord w s).2.halted = s.halted := by simp [State.readWord]
@[simp] theorem State.readWord_mem (w : Word) (s : State) : (State.readWord w s).2.mem = s.mem := by simp [State.readWord]
@[simp] theorem State.readWord_memSize (w : Word) (s : State) : (State.readWord w s).2.memSize = s.memSize := by simp [State.readWord]
@[simp] theorem State.readWord_dev (w : Word) (s : State) : (State.readWord w s).2.dev = s.dev := by simp [State.readWord]
@[simp] theorem State.readWord_cfg (w : Word) (s : State) : (State.readWord w s).2.cfg = s.cfg := by simp [State.readWord]

@[simp] theorem State.writeWord_a (w v : Word) (s : State) : (State.writeWord w v s).a = s.a := by simp [State.writeWord]
@[simp] theorem State.writeWord_x (w v : Word) (s : State) : (State.writeWord w v s).x = s.x := by simp [State.writeWord]
@[simp] theorem State.writeWord_y (w v : Word) (s : State) : (State.writeWord w v s).y = s.y := by simp [State.writeWord]
@[simp] theorem State.writeWord_sp (w v : Word) (s : State) : (State.writeWord w v s).sp = s.sp := by simp [State.writeWord]
@[simp] theorem State.writeWord_pc (w v : Word) (s : State) : (State.writeWord w v s).pc = s.pc := by simp [State.writeWord]
@[simp] theorem State.writeWord_p (w v : Word) (s : State) : (State.writeWord w v s).p = s.p := by simp [State.writeWord]
@[simp] theorem State.writeWord_cycles (w v : Word) (s : State) : (State.writeWord w v s).cycles = s.cycles := by simp [State.writeWord]
@[simp] theorem State.writeWord_halted (w v : Word) (s : State) : (State.writeWord w v s).halted = s.halted := by simp [State.writeWord]
@[simp] theorem State.writeWord_memSize (w v : Word) (s : State) : (State.writeWord w v s).memSize = s.memSize := by simp [State.writeWord]
@[simp] theorem State.writeWord_dev (w v : Word) (s : State) : (State.writeWord w v s).dev = s.dev := by simp [State.writeWord]
@[simp] theorem State.writeWord_draws (w v : Word) (s : State) : (State.writeWord w v s).draws = s.draws := by simp [State.writeWord]
@[simp] theorem State.writeWord_cfg (w v : Word) (s : State) : (State.writeWord w v s).cfg = s.cfg := by simp [State.writeWord]

@[simp] theorem State.pushWord_a (w : Word) (s : State) : (State.pushWord w s).a = s.a := by simp [State.pushWord]
@[simp] theorem State.pushWord_x (w : Word) (s : State) : (State.pushWord w s).x = s.x := by simp [State.pushWord]
@[simp] theorem State.pushWord_y (w : Word) (s : State) : (State.pushWord w s).y = s.y := by simp [State.pushWord]
@[simp] theorem State.pushWord_pc (w : Word) (s : State) : (State.pushWord w s).pc = s.pc := by simp [State.pushWord]
@[simp] theorem State.pushWord_p (w : Word) (s : State) : (State.pushWord w s).p = s.p := by simp [State.pushWord]
@[simp] theorem State.pushWord_cycles (w : Word) (s : State) : (State.pushWord w s).cycles = s.cycles := by simp [State.pushWord]
@[simp] theorem State.pushWord_halted (w : Word) (s : State) : (State.pushWord w s).halted = s.halted := by simp [State.pushWord]
@[simp] theorem State.pushWord_memSize (w : Word) (s : State) : (State.pushWord w s).memSize = s.memSize := by simp [State.pushWord]
@[simp] theorem State.pushWord_dev (w : Word) (s : State) : (State.pushWord w s).dev = s.dev := by simp [State.pushWord]
@[simp] theorem State.pushWord_draws (w : Word) (s : State) : (State.pushWord w s).draws = s.draws := by simp [State.pushWord]
@[simp] theorem State.pushWord_cfg (w : Word) (s : State) : (State.pushWord w s).cfg = s.cfg := by simp [State.pushWord]

@[simp] theorem State.popWord_a (s : State) : (State.popWord s).2.a = s.a := by simp [State.popWord]
@[simp] theorem State.popWord_x (s : State) : (State.popWord s).2.x = s.x := by simp [State.popWord]
@[simp] theorem State.popWord_y (s : State) : (State.popWord s).2.y = s.y := by simp [State.popWord]
@[simp] theorem State.popWord_pc (s : State) : (State.popWord s).2.pc = s.pc := by simp [State.popWord]
@[simp] theorem State.popWord_p (s : State) : (State.popWord s).2.p = s.p := by simp [State.popWord]
@[simp] theorem State.popWord_cycles (s : State) : (State.popWord s).2.cycles = s.cycles := by simp [State.popWord]
@[simp] theorem State.popWord_halted (s : State) : (State.popWord s).2.halted = s.halted := by simp [State.popWord]
@[simp] theorem State.popWord_mem (s : State) : (State.popWord s).2.mem = s.mem := by simp [State.popWord]
@[simp] theorem State.popWord_memSize (s : State) : (State.popWord s).2.memSize = s.memSize := by simp [State.popWord]
@[simp] theorem State.popWord_dev (s : State) : (State.popWord s).2.dev = s.dev := by simp [State.popWord]
@[simp] theorem State.popWord_cfg (s : State) : (State.popWord s).2.cfg = s.cfg := by simp [State.popWord]

@[simp] theorem State.zpPointer_a (q : Byte) (s : State) : (State.zpPointer q s).2.a = s.a := by simp [State.zpPointer]
@[simp] theorem State.zpPointer_x (q : Byte) (s : State) : (State.zpPointer q s).2.x = s.x := by simp [State.zpPointer]
@[simp] theorem State.zpPointer_y (q : Byte) (s : State) : (State.zpPointer q s).2.y = s.y := by simp [State.zpPointer]
@[simp] theorem State.zpPointer_sp (q : Byte) (s : State) : (State.zpPointer q s).2.sp = s.sp := by simp [State.zpPointer]
@[simp] theorem State.zpPointer_pc (q : Byte) (s : State) : (State.zpPointer q s).2.pc = s.pc := by simp [State.zpPointer]
@[simp] theorem State.zpPointer_p (q : Byte) (s : State) : (State.zpPointer q s).2.p = s.p := by simp [State.zpPointer]
@[simp] theorem State.zpPointer_cycles (q : Byte) (s : State) : (State.zpPointer q s).2.cycles = s.cycles := by simp [State.zpPointer]
@[simp] theorem State.zpPointer_halted (q : Byte) (s : State) : (State.zpPointer q s).2.halted = s.halted := by simp [State.zpPointer]
@[simp] theorem State.zpPointer_mem (q : Byte) (s : State) : (State.zpPointer q s).2.mem = s.mem := by simp [State.zpPointer]
@[simp] theorem State.zpPointer_memSize (q : Byte) (s : State) : (State.zpPointer q s).2.memSize = s.memSize := by simp [State.zpPointer]
@[simp] theorem State.zpPointer_dev (q : Byte) (s : State) : (State.zpPointer q s).2.dev = s.dev := by simp [State.zpPointer]
@[simp] theorem State.zpPointer_cfg (q : Byte) (s : State) : (State.zpPointer q s).2.cfg = s.cfg := by simp [State.zpPointer]

@[simp] theorem State.jmpPointer_a (w : Word) (s : State) : (State.jmpPointer w s).2.a = s.a := by simp [State.jmpPointer]
@[simp] theorem State.jmpPointer_x (w : Word) (s : State) : (State.jmpPointer w s).2.x = s.x := by simp [State.jmpPointer]
@[simp] theorem State.jmpPointer_y (w : Word) (s : State) : (State.jmpPointer w s).2.y = s.y := by simp [State.jmpPointer]
@[simp] theorem State.jmpPointer_sp (w : Word) (s : State) : (State.jmpPointer w s).2.sp = s.sp := by simp [State.jmpPointer]
@[simp] theorem State.jmpPointer_pc (w : Word) (s : State) : (State.jmpPointer w s).2.pc = s.pc := by simp [State.jmpPointer]
@[simp] theorem State.jmpPointer_p (w : Word) (s : State) : (State.jmpPointer w s).2.p = s.p := by simp [State.jmpPointer]
@[simp] theorem State.jmpPointer_cycles (w : Word) (s : State) : (State.jmpPointer w s).2.cycles = s.cycles := by simp [State.jmpPointer]
@[simp] theorem State.jmpPointer_halted (w : Word) (s : State) : (State.jmpPointer w s).2.halted = s.halted := by simp [State.jmpPointer]
@[simp] theorem State.jmpPointer_mem (w : Word) (s : State) : (State.jmpPointer w s).2.mem = s.mem := by simp [State.jmpPointer]
@[simp] theorem State.jmpPointer_memSize (w : Word) (s : State) : (State.jmpPointer w s).2.memSize = s.memSize := by simp [State.jmpPointer]
@[simp] theorem State.jmpPointer_dev (w : Word) (s : State) : (State.jmpPointer w s).2.dev = s.dev := by simp [State.jmpPointer]
@[simp] theorem State.jmpPointer_cfg (w : Word) (s : State) : (State.jmpPointer w s).2.cfg = s.cfg := by simp [State.jmpPointer]

@[simp] theorem State.interruptEntry_a (w : Word) (q : Byte) (s : State) : (State.interruptEntry w q s).a = s.a := by simp [State.interruptEntry]
@[simp] theorem State.interruptEntry_x (w : Word) (q : Byte) (s : State) : (State.interruptEntry w q s).x = s.x := by simp [State.interruptEntry]
@[simp] theorem State.interruptEntry_y (w : Word) (q : Byte) (s : State) : (State.interruptEntry w q s).y = s.y := by simp [State.interruptEntry]
@[simp] theorem State.interruptEntry_cycles (w : Word) (q : Byte) (s : State) : (State.interruptEntry w q s).cycles = s.cycles := by simp [State.interruptEntry]
@[simp] theorem State.interruptEntry_halted (w : Word) (q : Byte) (s : State) : (State.interruptEntry w q s).halted = s.halted := by simp [State.interruptEntry]
@[simp] theorem State.interruptEntry_memSize (w : Word) (q : Byte) (s : State) : (State.interruptEntry w q s).memSize = s.memSize := by simp [State.interruptEntry]
@[simp] theorem State.interruptEntry_dev (w : Word) (q : Byte) (s : State) : (State.interruptEntry w q s).dev = s.dev := by simp [State.interruptEntry]
@[simp] theorem State.interruptEntry_cfg (w : Word) (q : Byte) (s : State) : (State.interruptEntry w q s).cfg = s.cfg := by simp [State.interruptEntry]

@[simp] theorem State.returnFromInterrupt_a (s : State) : (State.returnFromInterrupt s).a = s.a := by simp [State.returnFromInterrupt]
@[simp] theorem State.returnFromInterrupt_x (s : State) : (State.returnFromInterrupt s).x = s.x := by simp [State.returnFromInterrupt]
@[simp] theorem State.returnFromInterrupt_y (s : State) : (State.returnFromInterrupt s).y = s.y := by simp [State.returnFromInterrupt]
@[simp] theorem State.returnFromInterrupt_cycles (s : State) : (State.returnFromInterrupt s).cycles = s.cycles := by simp [State.returnFromInterrupt]
@[simp] theorem State.returnFromInterrupt_halted (s : State) : (State.returnFromInterrupt s).halted = s.halted := by simp [State.returnFromInterrupt]
@[simp] theorem State.returnFromInterrupt_mem (s : State) : (State.returnFromInterrupt s).mem = s.mem := by simp [State.returnFromInterrupt]
@[simp] theorem State.returnFromInterrupt_memSize (s : State) : (State.returnFromInterrupt s).memSize = s.memSize := by simp [State.returnFromInterrupt]
@[simp] theorem State.returnFromInterrupt_dev (s : State) : (State.returnFromInterrupt s).dev = s.dev := by simp [State.returnFromInterrupt]
@[simp] theorem State.returnFromInterrupt_cfg (s : State) : (State.returnFromInterrupt s).cfg = s.cfg := by simp [State.returnFromInterrupt]

@[simp] theorem State.drawByte_a (s : State) : (State.drawByte s).2.a = s.a := by simp [State.drawByte]
@[simp] theorem State.drawByte_x (s : State) : (State.drawByte s).2.x = s.x := by simp [State.drawByte]
@[simp] theorem State.drawByte_y (s : State) : (State.drawByte s).2.y = s.y := by simp [State.drawByte]
@[simp] theorem State.drawByte_sp (s : State) : (State.drawByte s).2.sp = s.sp := by simp [State.drawByte]
@[simp] theorem State.drawByte_pc (s : State) : (State.drawByte s).2.pc = s.pc := by simp [State.drawByte]
@[simp] theorem State.drawByte_p (s : State) : (State.drawByte s).2.p = s.p := by simp [State.drawByte]
@[simp] theorem State.drawByte_cycles (s : State) : (State.drawByte s).2.cycles = s.cycles := by simp [State.drawByte]
@[simp] theorem State.drawByte_halted (s : State) : (State.drawByte s).2.halted = s.halted := by simp [State.drawByte]
@[simp] theorem State.drawByte_fault (s : State) : (State.drawByte s).2.fault = s.fault := by simp [State.drawByte]
@[simp] theorem State.drawByte_mem (s : State) : (State.drawByte s).2.mem = s.mem := by simp [State.drawByte]
@[simp] theorem State.drawByte_memSize (s : State) : (State.drawByte s).2.memSize = s.memSize := by simp [State.drawByte]
@[simp] theorem State.drawByte_dev (s : State) : (State.drawByte s).2.dev = s.dev := by simp [State.drawByte]
@[simp] theorem State.drawByte_bus (s : State) : (State.drawByte s).2.bus = s.bus := by simp [State.drawByte]
@[simp] theorem State.drawByte_cfg (s : State) : (State.drawByte s).2.cfg = s.cfg := by simp [State.drawByte]

@[simp] theorem State.drawWord_a (s : State) : (State.drawWord s).2.a = s.a := by simp [State.drawWord]
@[simp] theorem State.drawWord_x (s : State) : (State.drawWord s).2.x = s.x := by simp [State.drawWord]
@[simp] theorem State.drawWord_y (s : State) : (State.drawWord s).2.y = s.y := by simp [State.drawWord]
@[simp] theorem State.drawWord_sp (s : State) : (State.drawWord s).2.sp = s.sp := by simp [State.drawWord]
@[simp] theorem State.drawWord_pc (s : State) : (State.drawWord s).2.pc = s.pc := by simp [State.drawWord]
@[simp] theorem State.drawWord_p (s : State) : (State.drawWord s).2.p = s.p := by simp [State.drawWord]
@[simp] theorem State.drawWord_cycles (s : State) : (State.drawWord s).2.cycles = s.cycles := by simp [State.drawWord]
@[simp] theorem State.drawWord_halted (s : State) : (State.drawWord s).2.halted = s.halted := by simp [State.drawWord]
@[simp] theorem State.drawWord_fault (s : State) : (State.drawWord s).2.fault = s.fault := by simp [State.drawWord]
@[simp] theorem State.drawWord_mem (s : State) : (State.drawWord s).2.mem = s.mem := by simp [State.drawWord]
@[simp] theorem State.drawWord_memSize (s : State) : (State.drawWord s).2.memSize = s.memSize := by simp [State.drawWord]
@[simp] theorem State.drawWord_dev (s : State) : (State.drawWord s).2.dev = s.dev := by simp [State.drawWord]
@[simp] theorem State.drawWord_bus (s : State) : (State.drawWord s).2.bus = s.bus := by simp [State.drawWord]
@[simp] theorem State.drawWord_cfg (s : State) : (State.drawWord s).2.cfg = s.cfg := by simp [State.drawWord]

/-! ### The stack pointer, PC and the flags -/

@[simp] theorem State.fetch8_pc (s : State) : s.fetch8.2.pc = s.pc + 1 := rfl
@[simp] theorem State.push_sp (v : Byte) (s : State) : (s.push v).sp = s.sp - 1 := rfl
@[simp] theorem State.pop_sp (s : State) : s.pop.2.sp = s.sp + 1 := by simp [State.pop]
@[simp] theorem State.pushWord_sp (w : Word) (s : State) : (s.pushWord w).sp = s.sp - 1 - 1 := rfl
@[simp] theorem State.popWord_sp (s : State) : s.popWord.2.sp = s.sp + 1 + 1 := by simp [State.popWord]
@[simp] theorem State.interruptEntry_sp (w : Word) (q : Byte) (s : State) :
    (s.interruptEntry w q).sp = s.sp - 1 - 1 - 1 := by simp [State.interruptEntry]
@[simp] theorem State.interruptEntry_p (w : Word) (q : Byte) (s : State) :
    (s.interruptEntry w q).p = { s.p with i := true } := by simp [State.interruptEntry]
@[simp] theorem State.returnFromInterrupt_sp (s : State) :
    s.returnFromInterrupt.sp = s.sp + 1 + 1 + 1 := by simp [State.returnFromInterrupt]
@[simp] theorem State.returnFromInterrupt_p (s : State) :
    s.returnFromInterrupt.p = Flags.ofByte s.pop.1 := by simp [State.returnFromInterrupt]

/-! ### No access goes out of range where every address has a cell -/

section
variable {s : State} (h : s.Full)
include h

theorem State.fetch8_fault : s.fetch8.2.fault = s.fault := State.busRead_fault h _
theorem State.throwaway_fault : s.throwaway.fault = s.fault := State.busRead_fault h _
theorem State.push_fault (v : Byte) : (s.push v).fault = s.fault := State.busWrite_fault h _ v
theorem State.pop_fault : s.pop.2.fault = s.fault :=
  State.busRead_fault (s := { s with sp := s.sp + 1 }) (h.of_memSize rfl) _

theorem State.readWord_fault (w : Word) : (s.readWord w).2.fault = s.fault := by
  unfold State.readWord
  exact (State.busRead_fault (h.of_memSize (by simp)) _).trans (State.busRead_fault h w)

theorem State.pushWord_fault (w : Word) : (s.pushWord w).fault = s.fault := by
  unfold State.pushWord
  exact (State.push_fault (h.of_memSize (by simp)) _).trans (State.push_fault h _)

theorem State.popWord_fault : s.popWord.2.fault = s.fault := by
  unfold State.popWord
  exact (State.pop_fault (h.of_memSize (by simp))).trans (State.pop_fault h)

theorem State.zpPointer_fault (q : Byte) : (s.zpPointer q).2.fault = s.fault := by
  unfold State.zpPointer
  exact (State.busRead_fault (h.of_memSize (by simp)) _).trans (State.busRead_fault h _)

theorem State.jmpPointer_fault (w : Word) : (s.jmpPointer w).2.fault = s.fault := by
  unfold State.jmpPointer
  exact (State.busRead_fault (h.of_memSize (by simp)) _).trans (State.busRead_fault h _)

theorem State.interruptEntry_fault (w : Word) (q : Byte) : (s.interruptEntry w q).fault = s.fault := by
  unfold State.interruptEntry
  refine (State.readWord_fault (h.of_memSize (by simp)) w).trans ?_
  exact (State.push_fault (h.of_memSize (by simp)) q).trans (State.pushWord_fault h s.pc)

theorem State.returnFromInterrupt_fault : s.returnFromInterrupt.fault = s.fault := by
  unfold State.returnFromInterrupt
  refine (State.popWord_fault (h.of_memSize (by simp))).trans ?_
  exact State.pop_fault h

end

end Sys2Proof.Machine
end

