-- ==== Sys2Proof/Laws/Classes.lean ====
section
/-! SUPPORT. What the resolvers, the operand read and the read-modify-write protocol do, and what the
instruction classes answer. -/

namespace Sys2Proof.Machine

/-! ### Resolvers and operands: the fields they leave unchanged -/

@[simp] theorem State.resolve_a (m : Mode) (s : State) : (s.resolve m).2.a = s.a := by
  cases m <;> simp [State.resolve]
@[simp] theorem State.resolve_x (m : Mode) (s : State) : (s.resolve m).2.x = s.x := by
  cases m <;> simp [State.resolve]
@[simp] theorem State.resolve_y (m : Mode) (s : State) : (s.resolve m).2.y = s.y := by
  cases m <;> simp [State.resolve]
@[simp] theorem State.resolve_sp (m : Mode) (s : State) : (s.resolve m).2.sp = s.sp := by
  cases m <;> simp [State.resolve]
@[simp] theorem State.resolve_pc (m : Mode) (s : State) : (s.resolve m).2.pc = s.pc := by
  cases m <;> simp [State.resolve]
@[simp] theorem State.resolve_p (m : Mode) (s : State) : (s.resolve m).2.p = s.p := by
  cases m <;> simp [State.resolve]
@[simp] theorem State.resolve_cycles (m : Mode) (s : State) : (s.resolve m).2.cycles = s.cycles := by
  cases m <;> simp [State.resolve]
@[simp] theorem State.resolve_halted (m : Mode) (s : State) : (s.resolve m).2.halted = s.halted := by
  cases m <;> simp [State.resolve]
@[simp] theorem State.resolve_mem (m : Mode) (s : State) : (s.resolve m).2.mem = s.mem := by
  cases m <;> simp [State.resolve]
@[simp] theorem State.resolve_memSize (m : Mode) (s : State) : (s.resolve m).2.memSize = s.memSize := by
  cases m <;> simp [State.resolve]
@[simp] theorem State.resolve_dev (m : Mode) (s : State) : (s.resolve m).2.dev = s.dev := by
  cases m <;> simp [State.resolve]
@[simp] theorem State.resolve_cfg (m : Mode) (s : State) : (s.resolve m).2.cfg = s.cfg := by
  cases m <;> simp [State.resolve]

@[simp] theorem State.readOperand_a (m : Mode) (s : State) : (s.readOperand m).st.a = s.a := by
  cases m <;> simp [State.readOperand]
@[simp] theorem State.readOperand_x (m : Mode) (s : State) : (s.readOperand m).st.x = s.x := by
  cases m <;> simp [State.readOperand]
@[simp] theorem State.readOperand_y (m : Mode) (s : State) : (s.readOperand m).st.y = s.y := by
  cases m <;> simp [State.readOperand]
@[simp] theorem State.readOperand_sp (m : Mode) (s : State) : (s.readOperand m).st.sp = s.sp := by
  cases m <;> simp [State.readOperand]
@[simp] theorem State.readOperand_pc (m : Mode) (s : State) : (s.readOperand m).st.pc = s.pc := by
  cases m <;> simp [State.readOperand]
@[simp] theorem State.readOperand_p (m : Mode) (s : State) : (s.readOperand m).st.p = s.p := by
  cases m <;> simp [State.readOperand]
@[simp] theorem State.readOperand_cycles (m : Mode) (s : State) : (s.readOperand m).st.cycles = s.cycles := by
  cases m <;> simp [State.readOperand]
@[simp] theorem State.readOperand_halted (m : Mode) (s : State) : (s.readOperand m).st.halted = s.halted := by
  cases m <;> simp [State.readOperand]
@[simp] theorem State.readOperand_mem (m : Mode) (s : State) : (s.readOperand m).st.mem = s.mem := by
  cases m <;> simp [State.readOperand]
@[simp] theorem State.readOperand_memSize (m : Mode) (s : State) : (s.readOperand m).st.memSize = s.memSize := by
  cases m <;> simp [State.readOperand]
@[simp] theorem State.readOperand_dev (m : Mode) (s : State) : (s.readOperand m).st.dev = s.dev := by
  cases m <;> simp [State.readOperand]
@[simp] theorem State.readOperand_cfg (m : Mode) (s : State) : (s.readOperand m).st.cfg = s.cfg := by
  cases m <;> simp [State.readOperand]

@[simp] theorem State.rmw_x (m : Mode) (k : ByteCore) (s : State) : (s.rmw m k).st.x = s.x := by
  cases m <;> simp [State.rmw]
@[simp] theorem State.rmw_y (m : Mode) (k : ByteCore) (s : State) : (s.rmw m k).st.y = s.y := by
  cases m <;> simp [State.rmw]
@[simp] theorem State.rmw_sp (m : Mode) (k : ByteCore) (s : State) : (s.rmw m k).st.sp = s.sp := by
  cases m <;> simp [State.rmw]
@[simp] theorem State.rmw_pc (m : Mode) (k : ByteCore) (s : State) : (s.rmw m k).st.pc = s.pc := by
  cases m <;> simp [State.rmw]
@[simp] theorem State.rmw_cycles (m : Mode) (k : ByteCore) (s : State) : (s.rmw m k).st.cycles = s.cycles := by
  cases m <;> simp [State.rmw]
@[simp] theorem State.rmw_halted (m : Mode) (k : ByteCore) (s : State) : (s.rmw m k).st.halted = s.halted := by
  cases m <;> simp [State.rmw]
@[simp] theorem State.rmw_memSize (m : Mode) (k : ByteCore) (s : State) : (s.rmw m k).st.memSize = s.memSize := by
  cases m <;> simp [State.rmw]
@[simp] theorem State.rmw_dev (m : Mode) (k : ByteCore) (s : State) : (s.rmw m k).st.dev = s.dev := by
  cases m <;> simp [State.rmw]
@[simp] theorem State.rmw_cfg (m : Mode) (k : ByteCore) (s : State) : (s.rmw m k).st.cfg = s.cfg := by
  cases m <;> simp [State.rmw]

theorem State.resolve_fault {s : State} (h : s.Full) (m : Mode) : (s.resolve m).2.fault = s.fault := by
  cases m <;> simp [State.resolve, State.zpPointer_fault h, State.jmpPointer_fault h]

theorem State.Full.resolve {s : State} (h : s.Full) (m : Mode) : (s.resolve m).2.Full :=
  h.of_memSize (by simp)

/-- The operand of a mode with an effective address: one read of it (R116). -/
theorem State.readOperand_memory {m : Mode} (s : State) (h : m ≠ .imp) (h' : m ≠ .acc) (h'' : ∀ v, m ≠ .imm v) :
    s.readOperand m =
      ⟨((s.resolve m).2.busRead (s.resolve m).1.ea).1, (s.resolve m).1.crossed,
        ((s.resolve m).2.busRead (s.resolve m).1.ea).2⟩ := by
  cases m <;> first | rfl | exact absurd rfl h | exact absurd rfl h' | exact absurd rfl (h'' _)

theorem State.readOperand_fault {s : State} (h : s.Full) (m : Mode) : (s.readOperand m).st.fault = s.fault := by
  cases m <;>
    simp [State.readOperand, State.busRead_fault (h.resolve _), State.resolve_fault h]

/-- The read-modify-write of a memory operand: a read, the write of the old value, the write of the new (R117). -/
theorem State.rmw_memory {m : Mode} (k : ByteCore) (s : State) (h : m ≠ .acc) :
    s.rmw m k =
      let r := s.resolve m
      let old := r.2.busRead r.1.ea
      let s1 := old.2.busWrite r.1.ea old.1
      let new := k old.1 s1.p
      ⟨new.1, r.1.crossed, { s1.busWrite r.1.ea new.1 with p := new.2 }⟩ := by
  cases m <;> first | rfl | exact absurd rfl h

theorem State.rmw_fault {s : State} (h : s.Full) (m : Mode) (k : ByteCore) : (s.rmw m k).st.fault = s.fault := by
  by_cases hm : m = .acc
  · subst hm; rfl
  · rw [State.rmw_memory k s hm]
    have h1 := h.resolve m
    have h2 : ((s.resolve m).2.busRead (s.resolve m).1.ea).2.Full := h1.of_memSize (by simp)
    have h3 (v : Byte) : (((s.resolve m).2.busRead (s.resolve m).1.ea).2.busWrite (s.resolve m).1.ea v).Full :=
      h2.of_memSize (by simp)
    simp only [State.busWrite_fault (h3 _), State.busWrite_fault h2, State.busRead_fault h1, State.resolve_fault h]

/-- The value a read-modify-write of memory answers and the flags it leaves: the core of the byte read. -/
theorem State.rmw_value {m : Mode} (k : ByteCore) (s : State) (h : m ≠ .acc) :
    (s.rmw m k).value = (k ((s.resolve m).2.busRead (s.resolve m).1.ea).1 s.p).1 := by
  rw [State.rmw_memory k s h]
  simp

theorem State.rmw_p {m : Mode} (k : ByteCore) (s : State) (h : m ≠ .acc) :
    (s.rmw m k).st.p = (k ((s.resolve m).2.busRead (s.resolve m).1.ea).1 s.p).2 := by
  rw [State.rmw_memory k s h]
  simp

@[simp] theorem State.rmw_a_memory {m : Mode} (k : ByteCore) (s : State) (h : m ≠ .acc) :
    (s.rmw m k).st.a = s.a := by
  rw [State.rmw_memory k s h]
  simp

/-! ### Rows -/

/-- The opcode byte of an instruction stands in its forms. -/
theorem opcodeOf_mem {i : Instr} {op : Byte} (h : i.opcodeOf = some op) : (i.mode.format, op) ∈ i.forms := by
  unfold Instr.opcodeOf at h
  generalize i.forms = l at h
  induction l with
  | nil => simp at h
  | cons e rest ih =>
    obtain ⟨f, b⟩ := e
    by_cases hf : (i.mode.format == f) = true
    · simp only [List.lookup, hf, Option.some.injEq] at h
      rw [← h, ← eq_of_beq hf]
      exact List.mem_cons_self
    · simp only [Bool.not_eq_true] at hf
      simp only [List.lookup, hf] at h
      exact List.mem_cons_of_mem _ (ih h)

/-- An opcode outside the optional set is populated under every configuration (R133). -/
theorem populates_of_not_optional (cfg : Config) {op : Byte} (h : optionalOpcodes.contains op = false) :
    cfg.populates op = true := by
  unfold Config.populates
  rw [h]
  rfl

/-- An instruction none of whose forms is optional is populated under every configuration. -/
theorem populates_of_forms (cfg : Config) {i : Instr} {op : Byte} (h : i.opcodeOf = some op)
    (hf : i.forms.all (fun e => !optionalOpcodes.contains e.2) = true) : cfg.populates op = true := by
  have := List.all_eq_true.mp hf _ (opcodeOf_mem h)
  exact populates_of_not_optional cfg (by simpa using this)

/-- The check of the row passes for a populated opcode. -/
theorem withRow_some {i : Instr} {s : State} {f : Byte → Result} {op : Byte} (h : i.opcodeOf = some op)
    (hp : s.cfg.populates op = true) : withRow i s f = f op := by
  simp [withRow, h, hp]

/-- The check of the row answers three things: the form is refused, the failure is raised, or `f` runs. -/
theorem withRow_cases (i : Instr) (s : State) (f : Byte → Result) :
    (i.opcodeOf = none ∧ withRow i s f = .refused .noSuchForm) ∨
    (∃ op, i.opcodeOf = some op ∧ s.cfg.populates op = false ∧ withRow i s f = raiseUnpopulated op s) ∨
    (∃ op, i.opcodeOf = some op ∧ s.cfg.populates op = true ∧ withRow i s f = f op) := by
  unfold withRow
  cases h : i.opcodeOf with
  | none => exact .inl ⟨rfl, rfl⟩
  | some op =>
    cases hp : s.cfg.populates op with
    | false => exact .inr (.inl ⟨op, rfl, hp, by simp [hp]⟩)
    | true => exact .inr (.inr ⟨op, rfl, hp, by simp [hp]⟩)

/-! ### What an instruction class answers in a ready state -/

theorem commit_next {s : State} (h : s.fault = none) : commit s = .next s := by
  simp [commit, h]

/-- An instruction that ends in a next state ends in the state it reached. -/
theorem commit_inv {s t : State} (h : commit s = .next t) : t = s := by
  unfold commit at h
  split at h
  · cases h
  · cases h; rfl

theorem complete_next {s : State} (op : Byte) (n : Nat) (h : s.fault = none) :
    complete op n s = .next { s with cycles := s.cycles + (s.cfg.baseCyclesOf op + n) } :=
  commit_next h

theorem complete_inv {s t : State} {op : Byte} {n : Nat} (h : complete op n s = .next t) :
    t = { s with cycles := s.cycles + (s.cfg.baseCyclesOf op + n) } :=
  commit_inv h

section
variable {i : Instr} {op : Byte} {s : State} (h : i.opcodeOf = some op) (hp : s.cfg.populates op = true)
include h hp

theorem readClass_next (m : Mode) (f : Byte → State → State) (hr : s.Ready)
    (hf : ∀ v t, (f v t).fault = t.fault) :
    readClass i m f s = .next
      (let u := f (s.readOperand m).value (s.readOperand m).st
       { u with cycles := u.cycles + (u.cfg.baseCyclesOf op + readPenalty (s.readOperand m).crossed) }) := by
  unfold readClass
  rw [withRow_some h hp]
  exact complete_next op _ (by rw [hf, State.readOperand_fault hr.2, hr.1])

theorem storeClass_next (m : Mode) (v : State → Byte) (hr : s.Ready) :
    storeClass i m v s = .next
      (let u := (s.resolve m).2.busWrite (s.resolve m).1.ea (v s)
       { u with
         cycles := u.cycles + (u.cfg.baseCyclesOf op + writePenalty s.cfg (s.resolve m).1.crossed) }) := by
  unfold storeClass
  rw [withRow_some h hp]
  exact complete_next op _ (by rw [State.busWrite_fault (hr.2.resolve m), State.resolve_fault hr.2, hr.1])

theorem rmwClass_next (m : Mode) (k : ByteCore) (f : Byte → State → State) (hr : s.Ready)
    (hf : ∀ v t, (f v t).fault = t.fault) :
    rmwClass i m k f s = .next
      (let u := f (s.rmw m k).value (s.rmw m k).st
       { u with cycles := u.cycles + (u.cfg.baseCyclesOf op + writePenalty s.cfg (s.rmw m k).crossed) }) := by
  unfold rmwClass
  rw [withRow_some h hp]
  exact complete_next op _ (by rw [hf, State.rmw_fault hr.2, hr.1])

theorem impliedClass_next (f : State → State) (hf : (f s).fault = none) :
    impliedClass i f s = .next
      { f s with cycles := (f s).cycles + ((f s).cfg.baseCyclesOf op + 0) } := by
  unfold impliedClass
  rw [withRow_some h hp]
  exact complete_next op 0 hf

theorem branchClass_next (c : Bool) (d : Byte) (hr : s.Ready) :
    branchClass i c d s = .next
      { s with
        pc := if c then s.pc + sext16 d else s.pc
        cycles := s.cycles + (s.cfg.baseCyclesOf op +
          if c then (if pageCross s.pc (s.pc + sext16 d) then 2 else 1) else 0) } := by
  unfold branchClass
  rw [withRow_some h hp]
  cases c
  · exact complete_next op _ hr.1
  · exact complete_next op _ hr.1

end

end Sys2Proof.Machine
end

