-- ==== Sys2Proof/Laws/Kept.lean ====
section
/-! SUPPORT. What every shared operation keeps, in any state: the canonical form of memory, the handlers, the
size of memory, the parameters and the run state, and the failure record but for an access out of range. Then
what the instruction classes can answer. -/

namespace Sys2Proof.Machine

/-- What an operation inside an instruction keeps. -/
structure Kept (s t : State) : Prop where
  wf : s.mem.wf = true → t.mem.wf = true
  dev : t.dev = s.dev
  memSize : t.memSize = s.memSize
  cfg : t.cfg = s.cfg
  halted : t.halted = s.halted
  fault : t.fault = s.fault ∨ (s.fault = none ∧ ∃ a, t.fault = some (.busOutOfRange a))

theorem Kept.refl (s : State) : Kept s s := ⟨id, rfl, rfl, rfl, rfl, .inl rfl⟩

theorem Kept.trans {s t u : State} (h : Kept s t) (k : Kept t u) : Kept s u where
  wf := k.wf ∘ h.wf
  dev := k.dev.trans h.dev
  memSize := k.memSize.trans h.memSize
  cfg := k.cfg.trans h.cfg
  halted := k.halted.trans h.halted
  fault := by
    rcases h.fault with h1 | ⟨h1, a, h2⟩
    · rcases k.fault with k1 | ⟨k1, b, k2⟩
      · exact .inl (k1.trans h1)
      · exact .inr ⟨h1 ▸ k1, b, k2⟩
    · rcases k.fault with k1 | ⟨k1, -⟩
      · exact .inr ⟨h1, a, k1.trans h2⟩
      · rw [h2] at k1; cases k1

/-- A change of registers, flags, counters or the record keeps everything. -/
theorem Kept.of_eq {s t : State} (hm : t.mem = s.mem) (hd : t.dev = s.dev) (hs : t.memSize = s.memSize)
    (hc : t.cfg = s.cfg) (hh : t.halted = s.halted) (hf : t.fault = s.fault) : Kept s t :=
  ⟨fun h => by rw [hm]; exact h, hd, hs, hc, hh, .inl hf⟩

theorem kept_busRead (w : Word) (s : State) : Kept s (s.busRead w).2 where
  wf := by simp
  dev := by simp
  memSize := by simp
  cfg := by simp
  halted := by simp
  fault := by
    rw [State.busRead_state]
    by_cases h : s.reaches w = true
    · simp [h]
    · cases hf : s.fault <;> simp [h]

theorem kept_busWrite (w : Word) (v : Byte) (s : State) : Kept s (s.busWrite w v) where
  wf := by
    intro h
    rw [State.busWrite_state]
    simp only
    split
    · exact Memory.write_wf h w.isLt v
    · exact h
  dev := by simp
  memSize := by simp
  cfg := by simp
  halted := by simp
  fault := by
    rw [State.busWrite_state]
    by_cases h : s.reaches w = true
    · simp [h]
    · cases hf : s.fault <;> simp [h]

theorem kept_fetch8 (s : State) : Kept s s.fetch8.2 :=
  (kept_busRead s.pc s).trans (.of_eq rfl rfl rfl rfl rfl rfl)

theorem kept_throwaway (s : State) : Kept s s.throwaway := kept_busRead s.pc s

theorem kept_push (v : Byte) (s : State) : Kept s (s.push v) :=
  (kept_busWrite (stackAddr s.sp) v s).trans (.of_eq rfl rfl rfl rfl rfl rfl)

theorem kept_pop (s : State) : Kept s s.pop.2 :=
  Kept.trans (t := { s with sp := s.sp + 1 }) (.of_eq rfl rfl rfl rfl rfl rfl)
    (kept_busRead (stackAddr (s.sp + 1)) { s with sp := s.sp + 1 })

theorem kept_readWord (w : Word) (s : State) : Kept s (s.readWord w).2 :=
  (kept_busRead w s).trans (kept_busRead _ _)

theorem kept_pushWord (w : Word) (s : State) : Kept s (s.pushWord w) :=
  (kept_push _ s).trans (kept_push _ _)

theorem kept_popWord (s : State) : Kept s s.popWord.2 := (kept_pop s).trans (kept_pop _)

theorem kept_zpPointer (q : Byte) (s : State) : Kept s (s.zpPointer q).2 :=
  (kept_busRead _ s).trans (kept_busRead _ _)

theorem kept_jmpPointer (w : Word) (s : State) : Kept s (s.jmpPointer w).2 :=
  (kept_busRead _ s).trans (kept_busRead _ _)

theorem kept_interruptEntry (w : Word) (q : Byte) (s : State) : Kept s (s.interruptEntry w q) := by
  unfold State.interruptEntry
  refine ((kept_pushWord s.pc s).trans (kept_push q _)).trans ?_
  refine Kept.trans (t := { (s.pushWord s.pc).push q with p := { ((s.pushWord s.pc).push q).p with i := true } })
    (.of_eq rfl rfl rfl rfl rfl rfl) ?_
  exact (kept_readWord w _).trans (.of_eq rfl rfl rfl rfl rfl rfl)

theorem kept_returnFromInterrupt (s : State) : Kept s s.returnFromInterrupt := by
  unfold State.returnFromInterrupt
  refine (kept_pop s).trans ?_
  refine Kept.trans (t := s.pop.2.setStatus s.pop.1) (.of_eq rfl rfl rfl rfl rfl rfl) ?_
  exact (kept_popWord _).trans (.of_eq rfl rfl rfl rfl rfl rfl)

theorem kept_resolve (m : Mode) (s : State) : Kept s (s.resolve m).2 := by
  cases m <;>
    first
    | exact Kept.refl s
    | exact kept_jmpPointer _ s
    | exact kept_zpPointer _ s

theorem kept_readOperand (m : Mode) (s : State) : Kept s (s.readOperand m).st := by
  cases m <;>
    first
    | exact Kept.refl s
    | exact (kept_resolve _ s).trans (kept_busRead _ _)

theorem kept_rmw (m : Mode) (k : ByteCore) (s : State) : Kept s (s.rmw m k).st := by
  by_cases h : m = .acc
  · subst h; exact .of_eq rfl rfl rfl rfl rfl rfl
  · rw [State.rmw_memory k s h]
    have hr := (kept_resolve m s).trans (kept_busRead (s.resolve m).1.ea (s.resolve m).2)
    have ho := hr.trans (kept_busWrite (s.resolve m).1.ea ((s.resolve m).2.busRead (s.resolve m).1.ea).1 _)
    have hn (v : Byte) := ho.trans (kept_busWrite (s.resolve m).1.ea v _)
    exact (hn _).trans (.of_eq rfl rfl rfl rfl rfl rfl)

/-! ### What an instruction can answer when it goes on -/

/-- The ways an instruction ends in a next state: its opcode is unpopulated and its failure is recorded, or it
ran, keeping what an operation keeps, with no access out of range. -/
def Ended (i : Instr) (s t : State) : Prop :=
  (∃ op, i.opcodeOf = some op ∧ s.cfg.populates op = false ∧
    t = { s with fault := some (unpopulatedFailure s.cfg op) }) ∨
  (Kept s t ∧ ∀ a, t.fault ≠ some (.busOutOfRange a))

theorem complete_ended {i : Instr} {s u t : State} {op : Byte} {n : Nat} (hk : Kept s u)
    (h : complete op n u = .next t) : Ended i s t := by
  have ht := complete_inv h
  refine .inr ⟨hk.trans (by rw [ht]; exact .of_eq rfl rfl rfl rfl rfl rfl), fun a hf => ?_⟩
  rw [ht] at hf
  simp only at hf
  simp [complete, commit, hf] at h

/-- An instruction behind the check of its row: if what runs there has ended, the instruction has. -/
theorem withRow_ended {i : Instr} {s t : State} {f : Byte → Result} (h : withRow i s f = .next t)
    (hf : ∀ op, i.opcodeOf = some op → s.cfg.populates op = true → f op = .next t → Ended i s t) : Ended i s t := by
  rcases withRow_cases i s f with ⟨-, e⟩ | ⟨op, ho, hp, e⟩ | ⟨op, ho, hp, e⟩
  · rw [e] at h; cases h
  · rw [e] at h
    refine .inl ⟨op, ho, hp, ?_⟩
    unfold raiseUnpopulated at h
    cases h
    rfl
  · exact hf op ho hp (e ▸ h)

theorem readClass_ended {i : Instr} {m : Mode} {f : Byte → State → State} {s t : State}
    (hf : ∀ v u, Kept u (f v u)) (h : readClass i m f s = .next t) : Ended i s t :=
  withRow_ended h fun _ _ _ e => complete_ended ((kept_readOperand m s).trans (hf _ _)) e

theorem storeClass_ended {i : Instr} {m : Mode} {v : State → Byte} {s t : State}
    (h : storeClass i m v s = .next t) : Ended i s t :=
  withRow_ended h fun _ _ _ e => complete_ended ((kept_resolve m s).trans (kept_busWrite _ _ _)) e

theorem rmwClass_ended {i : Instr} {m : Mode} {k : ByteCore} {f : Byte → State → State} {s t : State}
    (hf : ∀ v u, Kept u (f v u)) (h : rmwClass i m k f s = .next t) : Ended i s t :=
  withRow_ended h fun _ _ _ e => complete_ended ((kept_rmw m k s).trans (hf _ _)) e

theorem impliedClass_ended {i : Instr} {f : State → State} {s t : State} (hf : Kept s (f s))
    (h : impliedClass i f s = .next t) : Ended i s t :=
  withRow_ended h fun _ _ _ e => complete_ended hf e

theorem branchClass_ended {i : Instr} {c : Bool} {d : Byte} {s t : State}
    (h : branchClass i c d s = .next t) : Ended i s t := by
  refine withRow_ended h fun _ _ _ e => ?_
  cases c
  · exact complete_ended (u := s) (Kept.refl s) e
  · exact complete_ended (u := { s with pc := s.pc + sext16 d }) (.of_eq rfl rfl rfl rfl rfl rfl) e

theorem unstableStore_ended {i : Instr} {m : Mode} {pre : State → State} {v : State → Byte} {s t : State}
    (hp : ∀ u, Kept u (pre u)) (h : unstableStore i m pre v s = .next t) : Ended i s t := by
  refine withRow_ended h fun _ _ _ e => ?_
  by_cases hc : (s.resolve m).1.crossed = true
  · simp only [hc, if_true] at e
    refine complete_ended (((kept_resolve m s).trans (hp _)).trans ?_) e
    exact Kept.trans (t := (pre (s.resolve m).2).drawWord.2.drawByte.2) (.of_eq rfl rfl rfl rfl rfl rfl)
      (kept_busWrite _ _ _)
  · simp only [hc] at e
    exact complete_ended (((kept_resolve m s).trans (hp _)).trans (kept_busWrite _ _ _)) e

end Sys2Proof.Machine
end

