-- ==== Sys2Proof/Laws/After.lean ====
section
/-! SUPPORT. What the instruction classes leave in a ready state, in the terms of Safety: one law per class,
which says all it does outside the registers and flags that its instruction writes. -/

namespace Sys2Proof.Machine

/-- A configuration that names an optional opcode populates it (R310). -/
theorem populates_of_mem {cfg : Config} {op : Byte} (h : op ∈ cfg.undocPopulated) : cfg.populates op = true := by
  simp [Config.populates, h]

/-- The page-cross cycle of a store or a read-modify-write, written out (R115). -/
theorem writePenalty_eq (cfg : Config) (crossed : Bool) :
    writePenalty cfg crossed = if crossed ∧ cfg.penaltyOnWrites then 1 else 0 := by
  cases crossed <;> simp [writePenalty]

/-- An instruction without an accumulator form does not have the accumulator's mode. -/
theorem mode_ne_acc {i : Instr} {op : Byte} (h : i.opcodeOf = some op)
    (ha : i.forms.all (fun e => decide (e.1 ≠ .ACC)) = true) : i.mode ≠ .acc := by
  intro e
  have := List.all_eq_true.mp ha _ (opcodeOf_mem h)
  rw [e] at this
  simp [Mode.format] at this

/-- A state whose memory is that after a write of `v` at `a` has it stored, if the write's state has the memory
and the handlers of `s` (R54, R72). -/
theorem stored_of_write {s u t : State} (hu : u.Full) (hw : u.mem.wf = true) (a : Word) (v : Byte)
    (hm : ∀ b, u.peek b = s.peek b ∨ b = a ∧ u.inDev a = false) (hd : u.dev = s.dev)
    (ht : t.mem = (u.busWrite a v).mem) : s.Stored t a v := by
  have e (b) : t.peek b = (u.busWrite a v).peek b := State.peek_congr ht b
  refine ⟨fun h => ?_, fun h b => ?_, fun b hb => ?_⟩
  · rw [e]
    exact State.peek_busWrite_same hu hw ((State.inDev_congr hd a).trans h) v
  · have h' := (State.inDev_congr hd a).trans h
    rw [e, State.peek_busWrite_dev h']
    rcases hm b with h1 | ⟨-, h2⟩
    · exact h1
    · rw [h'] at h2; cases h2
  · have hb : b ≠ a := by simpa using hb
    rw [e, State.peek_busWrite_other hb]
    rcases hm b with h1 | ⟨h2, -⟩
    · exact h1
    · exact absurd h2 hb

section
variable {i : Instr} {op : Byte} {s : State} (h : i.opcodeOf = some op) (hp : s.cfg.populates op = true)
include h hp

/-- A read-class instruction whose `f` writes only A, X, Y, SP and flags. -/
theorem readClass_after (m : Mode) (f : Byte → State → State) (hr : s.Ready)
    (hf : ∀ v u, f v u = { u with a := (f v u).a, x := (f v u).x, y := (f v u).y, sp := (f v u).sp, p := (f v u).p }) :
    ∃ t, readClass i m f s = .next t ∧ s.AfterRead t m op ∧
      let u := f (s.readOperand m).value (s.readOperand m).st
      t.a = u.a ∧ t.x = u.x ∧ t.y = u.y ∧ t.sp = u.sp ∧ t.p = u.p := by
  refine ⟨_, readClass_next h hp m f hr (fun v t => by rw [hf]), ?_, rfl, rfl, rfl, rfl, rfl⟩
  rw [hf]
  simp [State.AfterRead, State.SameRun, State.SameMem, State.Charged, readPenalty, State.readOperand_fault hr.2,
    State.peek]

/-- A store. -/
theorem storeClass_after (m : Mode) (v : State → Byte) (hr : s.Ready) (hw : s.mem.wf = true) :
    ∃ t, storeClass i m v s = .next t ∧ s.AfterStore t m op (v s) := by
  have hf := hr.2.resolve m
  refine ⟨_, storeClass_next h hp m v hr, ?_, ?_⟩
  · exact stored_of_write hf (by simpa using hw) _ _ (fun b => .inl (State.peek_congr (by simp) b)) (by simp) rfl
  · simp [State.SameAXYS, State.SameXYS, State.SameRun, State.Charged, writePenalty_eq, State.busWrite_fault hf,
      State.busWrite_bus hf, State.resolve_fault hr.2]

/-- A read-modify-write of memory whose `f` writes only A and flags. -/
theorem rmwClass_after {m : Mode} (hm : m ≠ .acc) (k : ByteCore) (f : Byte → State → State) (hr : s.Ready)
    (hw : s.mem.wf = true) (hf : ∀ v u, f v u = { u with a := (f v u).a, p := (f v u).p }) :
    ∃ t u, rmwClass i m k f s = .next t ∧ s.AfterRmw t m op (k (s.rmwOld m) s.p).1 ∧
      u = (s.rmw m k).st ∧ u.a = s.a ∧ u.p = (k (s.rmwOld m) s.p).2 ∧
      t.a = (f (k (s.rmwOld m) s.p).1 u).a ∧ t.p = (f (k (s.rmwOld m) s.p).1 u).p := by
  have hv : (s.rmw m k).value = (k (s.rmwOld m) s.p).1 := State.rmw_value k s hm
  refine ⟨_, _, rmwClass_next h hp m k f hr (fun v t => by rw [hf]), ?_, rfl, by simp [hm], State.rmw_p k s hm,
    by simp [hv], by simp [hv]⟩
  have h1 := hr.2.resolve m
  have h2 : ((s.resolve m).2.busRead (s.resolve m).1.ea).2.Full := h1.of_memSize (by simp)
  have h3 (v : Byte) : (((s.resolve m).2.busRead (s.resolve m).1.ea).2.busWrite (s.resolve m).1.ea v).Full :=
    h2.of_memSize (by simp)
  rw [hf, hv, State.rmw_memory k s hm]
  refine ⟨?_, ?_⟩
  · refine stored_of_write (h3 (s.rmwOld m)) ?_ _ _ (fun b => ?_) (by simp) (by simp [State.rmwOld])
    · exact (kept_busWrite _ _ _).wf (by simpa using hw)
    · by_cases hb : b = (s.resolve m).1.ea
      · cases hd : s.inDev (s.resolve m).1.ea
        · exact .inr ⟨hb, by rw [← hd]; exact State.inDev_congr (by simp) _⟩
        · rw [State.peek_busWrite_dev (by rw [← hd]; exact State.inDev_congr (by simp) _)]
          exact .inl (State.peek_congr (by simp) b)
      · rw [State.peek_busWrite_other hb]
        exact .inl (State.peek_congr (by simp) b)
  · simp [State.SameXYS, State.SameRun, State.Charged, writePenalty_eq, State.rmwOld, State.busWrite_fault (h3 _),
      State.busWrite_fault h2, State.busRead_fault h1, State.resolve_fault hr.2, State.busWrite_bus (h3 _),
      State.busWrite_bus h2, State.busRead_bus h1]

end

end Sys2Proof.Machine
end

