-- ==== Sys2Proof/Laws/Bits.lean ====
section
/-! SUPPORT. The laws of the value helpers: taking a word apart and putting it together, and stack addresses. -/

namespace Sys2Proof

@[simp] theorem loByte_cat (h l : Byte) : loByte (cat h l) = l := by
  show (h ++ l : BitVec 16).extractLsb' 0 8 = l
  apply BitVec.eq_of_getLsbD_eq
  intro i hi
  have e := fun j => BitVec.getLsbD_append (x := h) (y := l) (i := j)
  simp [e, hi]

@[simp] theorem hiByte_cat (h l : Byte) : hiByte (cat h l) = h := by
  show (h ++ l : BitVec 16).extractLsb' 8 8 = h
  apply BitVec.eq_of_getLsbD_eq
  intro i hi
  have e := fun j => BitVec.getLsbD_append (x := h) (y := l) (i := j)
  simp [e, hi]

@[simp] theorem cat_hiByte_loByte (w : Word) : cat (hiByte w) (loByte w) = w := by
  show (w.extractLsb' 8 8 ++ w.extractLsb' 0 8 : BitVec 16) = w
  apply BitVec.eq_of_getLsbD_eq
  intro i hi
  simp only [BitVec.getLsbD_append, BitVec.getLsbD_extractLsb']
  by_cases h : i < 8
  · simp [h]
  · have h' : i - 8 < 8 := by omega
    have e : 8 + (i - 8) = i := by omega
    simp [h, h', e]

theorem cat_toNat (h l : Byte) : (cat h l).toNat = h.toNat * 256 + l.toNat := by
  show (h ++ l : BitVec 16).toNat = _
  rw [BitVec.toNat_append, ← Nat.shiftLeft_add_eq_or_of_lt l.isLt, Nat.shiftLeft_eq]

theorem hiByte_toNat (w : Word) : (hiByte w).toNat = w.toNat / 256 := by
  have := w.isLt
  simp [hiByte, BitVec.extractLsb'_toNat, Nat.shiftRight_eq_div_pow]
  omega

theorem loByte_toNat (w : Word) : (loByte w).toNat = w.toNat % 256 := by
  simp [loByte, BitVec.extractLsb'_toNat]

/-- The next address in the same page: after its last one stands its first (R108). -/
theorem cat_next_in_page (w : Word) :
    cat (hiByte w) (loByte w + 1) = if w.toNat % 256 = 255 then w - 255 else w + 1 := by
  apply BitVec.eq_of_toNat_eq
  have := w.isLt
  have e1 : (1 : Byte).toNat = 1 := rfl
  have e2 : (255 : Word).toNat = 255 := rfl
  have e3 : (1 : Word).toNat = 1 := rfl
  rw [cat_toNat, hiByte_toNat, BitVec.toNat_add, loByte_toNat, e1]
  split
  · rw [BitVec.toNat_sub, e2]; omega
  · rw [BitVec.toNat_add, e3]; omega

theorem zext16_toNat (v : Byte) : (zext16 v).toNat = v.toNat := by
  show (v.setWidth 16).toNat = _
  rw [BitVec.toNat_setWidth]
  have := v.isLt
  omega

theorem stackAddr_toNat (sp : Byte) : (stackAddr sp).toNat = 256 + sp.toNat := cat_toNat 0x01 sp

theorem stackAddr_inj {a b : Byte} (h : stackAddr a = stackAddr b) : a = b := by
  have := congrArg BitVec.toNat h
  rw [stackAddr_toNat, stackAddr_toNat] at this
  exact BitVec.eq_of_toNat_eq (by omega)

theorem stackAddr_ne_one (a : Byte) : stackAddr (a - 1) ≠ stackAddr a := fun h => by
  have := stackAddr_inj h
  bv_omega

theorem stackAddr_ne_two (a : Byte) : stackAddr (a - 2) ≠ stackAddr a := fun h => by
  have := stackAddr_inj h
  bv_omega

end Sys2Proof
end

