-- ==== Sys2Proof/Laws/Stack.lean ====
section
/-! SUPPORT. What the stack operations read, write and record where every address has a cell (R26), and
the word read of the bus (R58). -/

namespace Sys2Proof.Machine

/-! ### One push, one pop -/

theorem State.push_bus {s : State} (h : s.Full) (v : Byte) :
    (s.push v).bus = .write (stackAddr s.sp) v :: s.bus := State.busWrite_bus h _ v

theorem State.peek_push_other {s : State} {b : Word} (hb : b ≠ stackAddr s.sp) (v : Byte) :
    (s.push v).peek b = s.peek b := State.peek_busWrite_other hb v s

theorem State.peek_push_same {s : State} (h : s.Full) (hw : s.mem.wf = true)
    (hd : s.inDev (stackAddr s.sp) = false) (v : Byte) : (s.push v).peek (stackAddr s.sp) = v :=
  State.peek_busWrite_same h hw hd v

theorem State.peek_push_dev {s : State} (hd : s.inDev (stackAddr s.sp) = true) (v : Byte) (b : Word) :
    (s.push v).peek b = s.peek b := State.peek_busWrite_dev hd v b

theorem State.Full.push {s : State} (h : s.Full) (v : Byte) : (s.push v).Full := h.of_memSize (by simp)

theorem State.Full.pop {s : State} (h : s.Full) : s.pop.2.Full := h.of_memSize (by simp)

theorem State.Full.throwaway {s : State} (h : s.Full) : s.throwaway.Full := h.of_memSize (by simp)

theorem State.pop_bus {s : State} (h : s.Full) :
    s.pop.2.bus = .read (stackAddr (s.sp + 1)) s.pop.1 :: s.bus :=
  State.busRead_bus (s := { s with sp := s.sp + 1 }) (h.of_memSize rfl) _

theorem State.pop_value {s : State} (hd : s.inDev (stackAddr (s.sp + 1)) = false) :
    s.pop.1 = s.peek (stackAddr (s.sp + 1)) :=
  State.busRead_plain (s := { s with sp := s.sp + 1 }) hd

theorem State.throwaway_bus {s : State} (h : s.Full) :
    s.throwaway.bus = .read s.pc (s.busRead s.pc).1 :: s.bus := State.busRead_bus h _

theorem State.readWord_bus {s : State} (h : s.Full) (w : Word) :
    (s.readWord w).2.bus = .read (w + 1) (hiByte (s.readWord w).1) :: .read w (loByte (s.readWord w).1) :: s.bus := by
  have h1 : (s.busRead w).2.Full := h.of_memSize (by simp)
  unfold State.readWord
  simp only [hiByte_cat, loByte_cat, State.busRead_bus h1, State.busRead_bus h]

end Sys2Proof.Machine
end

