-- ==== Sys2Proof/Laws/Exec.lean ====
section
/-! SUPPORT. What every meaning keeps when it goes on: one law per instruction, and the one of `exec`, which says
all that the run state, the handlers, the parameters, the failure record and the form of memory can become. -/

namespace Sys2Proof.Machine

/-- A change of registers and flags alone. -/
theorem kept_regs (a x y sp : Byte) (pc : Word) (p : Flags) (n d : Nat) (s : State) :
    Kept s { s with a := a, x := x, y := y, sp := sp, pc := pc, p := p, cycles := n, draws := d } :=
  .of_eq rfl rfl rfl rfl rfl rfl

theorem execLda_ended (m : Mode) {s t : State} (h : execLda m s = .next t) : Ended (.lda m) s t :=
  readClass_ended (by intros; exact .of_eq rfl rfl rfl rfl rfl rfl) h

theorem execLdx_ended (m : Mode) {s t : State} (h : execLdx m s = .next t) : Ended (.ldx m) s t :=
  readClass_ended (by intros; exact .of_eq rfl rfl rfl rfl rfl rfl) h

theorem execLdy_ended (m : Mode) {s t : State} (h : execLdy m s = .next t) : Ended (.ldy m) s t :=
  readClass_ended (by intros; exact .of_eq rfl rfl rfl rfl rfl rfl) h

theorem execSta_ended (m : Mode) {s t : State} (h : execSta m s = .next t) : Ended (.sta m) s t :=
  storeClass_ended h

theorem execStx_ended (m : Mode) {s t : State} (h : execStx m s = .next t) : Ended (.stx m) s t :=
  storeClass_ended h

theorem execSty_ended (m : Mode) {s t : State} (h : execSty m s = .next t) : Ended (.sty m) s t :=
  storeClass_ended h

theorem execTax_ended {s t : State} (h : execTax s = .next t) : Ended .tax s t :=
  impliedClass_ended (.of_eq rfl rfl rfl rfl rfl rfl) h

theorem execTay_ended {s t : State} (h : execTay s = .next t) : Ended .tay s t :=
  impliedClass_ended (.of_eq rfl rfl rfl rfl rfl rfl) h

theorem execTxa_ended {s t : State} (h : execTxa s = .next t) : Ended .txa s t :=
  impliedClass_ended (.of_eq rfl rfl rfl rfl rfl rfl) h

theorem execTya_ended {s t : State} (h : execTya s = .next t) : Ended .tya s t :=
  impliedClass_ended (.of_eq rfl rfl rfl rfl rfl rfl) h

theorem execTsx_ended {s t : State} (h : execTsx s = .next t) : Ended .tsx s t :=
  impliedClass_ended (.of_eq rfl rfl rfl rfl rfl rfl) h

theorem execTxs_ended {s t : State} (h : execTxs s = .next t) : Ended .txs s t :=
  impliedClass_ended (.of_eq rfl rfl rfl rfl rfl rfl) h

theorem execAdc_ended (m : Mode) {s t : State} (h : execAdc m s = .next t) : Ended (.adc m) s t :=
  readClass_ended (by intros; exact .of_eq rfl rfl rfl rfl rfl rfl) h

theorem execSbc_ended (m : Mode) {s t : State} (h : execSbc m s = .next t) : Ended (.sbc m) s t :=
  readClass_ended (by intros; exact .of_eq rfl rfl rfl rfl rfl rfl) h

theorem execAnd_ended (m : Mode) {s t : State} (h : execAnd m s = .next t) : Ended (.and m) s t :=
  readClass_ended (by intros; exact .of_eq rfl rfl rfl rfl rfl rfl) h

theorem execOra_ended (m : Mode) {s t : State} (h : execOra m s = .next t) : Ended (.ora m) s t :=
  readClass_ended (by intros; exact .of_eq rfl rfl rfl rfl rfl rfl) h

theorem execEor_ended (m : Mode) {s t : State} (h : execEor m s = .next t) : Ended (.eor m) s t :=
  readClass_ended (by intros; exact .of_eq rfl rfl rfl rfl rfl rfl) h

theorem execCmp_ended (m : Mode) {s t : State} (h : execCmp m s = .next t) : Ended (.cmp m) s t :=
  readClass_ended (by intros; exact .of_eq rfl rfl rfl rfl rfl rfl) h

theorem execCpx_ended (m : Mode) {s t : State} (h : execCpx m s = .next t) : Ended (.cpx m) s t :=
  readClass_ended (by intros; exact .of_eq rfl rfl rfl rfl rfl rfl) h

theorem execCpy_ended (m : Mode) {s t : State} (h : execCpy m s = .next t) : Ended (.cpy m) s t :=
  readClass_ended (by intros; exact .of_eq rfl rfl rfl rfl rfl rfl) h

theorem execBit_ended (m : Mode) {s t : State} (h : execBit m s = .next t) : Ended (.bit m) s t :=
  readClass_ended (by intros; exact .of_eq rfl rfl rfl rfl rfl rfl) h

theorem execInc_ended (m : Mode) {s t : State} (h : execInc m s = .next t) : Ended (.inc m) s t :=
  rmwClass_ended (by intros; exact .of_eq rfl rfl rfl rfl rfl rfl) h

theorem execDec_ended (m : Mode) {s t : State} (h : execDec m s = .next t) : Ended (.dec m) s t :=
  rmwClass_ended (by intros; exact .of_eq rfl rfl rfl rfl rfl rfl) h

theorem execInx_ended {s t : State} (h : execInx s = .next t) : Ended .inx s t :=
  impliedClass_ended (.of_eq rfl rfl rfl rfl rfl rfl) h

theorem execIny_ended {s t : State} (h : execIny s = .next t) : Ended .iny s t :=
  impliedClass_ended (.of_eq rfl rfl rfl rfl rfl rfl) h

theorem execDex_ended {s t : State} (h : execDex s = .next t) : Ended .dex s t :=
  impliedClass_ended (.of_eq rfl rfl rfl rfl rfl rfl) h

theorem execDey_ended {s t : State} (h : execDey s = .next t) : Ended .dey s t :=
  impliedClass_ended (.of_eq rfl rfl rfl rfl rfl rfl) h

theorem execAsl_ended (m : Mode) {s t : State} (h : execAsl m s = .next t) : Ended (.asl m) s t :=
  rmwClass_ended (by intros; exact .of_eq rfl rfl rfl rfl rfl rfl) h

theorem execLsr_ended (m : Mode) {s t : State} (h : execLsr m s = .next t) : Ended (.lsr m) s t :=
  rmwClass_ended (by intros; exact .of_eq rfl rfl rfl rfl rfl rfl) h

theorem execRol_ended (m : Mode) {s t : State} (h : execRol m s = .next t) : Ended (.rol m) s t :=
  rmwClass_ended (by intros; exact .of_eq rfl rfl rfl rfl rfl rfl) h

theorem execRor_ended (m : Mode) {s t : State} (h : execRor m s = .next t) : Ended (.ror m) s t :=
  rmwClass_ended (by intros; exact .of_eq rfl rfl rfl rfl rfl rfl) h

theorem execBcc_ended (d : Byte) {s t : State} (h : execBcc d s = .next t) : Ended (.bcc d) s t :=
  branchClass_ended h

theorem execBcs_ended (d : Byte) {s t : State} (h : execBcs d s = .next t) : Ended (.bcs d) s t :=
  branchClass_ended h

theorem execBeq_ended (d : Byte) {s t : State} (h : execBeq d s = .next t) : Ended (.beq d) s t :=
  branchClass_ended h

theorem execBmi_ended (d : Byte) {s t : State} (h : execBmi d s = .next t) : Ended (.bmi d) s t :=
  branchClass_ended h

theorem execBne_ended (d : Byte) {s t : State} (h : execBne d s = .next t) : Ended (.bne d) s t :=
  branchClass_ended h

theorem execBpl_ended (d : Byte) {s t : State} (h : execBpl d s = .next t) : Ended (.bpl d) s t :=
  branchClass_ended h

theorem execBvc_ended (d : Byte) {s t : State} (h : execBvc d s = .next t) : Ended (.bvc d) s t :=
  branchClass_ended h

theorem execBvs_ended (d : Byte) {s t : State} (h : execBvs d s = .next t) : Ended (.bvs d) s t :=
  branchClass_ended h

theorem execJmp_ended (m : Mode) {s t : State} (h : execJmp m s = .next t) : Ended (.jmp m) s t :=
  withRow_ended h fun op _ _ e =>
    complete_ended (op := op) (n := 0) (u := { (s.resolve m).2 with pc := (s.resolve m).1.ea })
      ((kept_resolve m s).trans (.of_eq rfl rfl rfl rfl rfl rfl)) e

theorem execJsr_ended (target : Word) {s t : State} (h : execJsr target s = .next t) : Ended (.jsr target) s t :=
  impliedClass_ended (f := fun t => { t.pushWord (t.pc - 1) with pc := target })
    ((kept_pushWord _ s).trans (.of_eq rfl rfl rfl rfl rfl rfl)) h

theorem execRts_ended {s t : State} (h : execRts s = .next t) : Ended .rts s t :=
  impliedClass_ended (((kept_throwaway s).trans (kept_popWord _)).trans (.of_eq rfl rfl rfl rfl rfl rfl)) h

theorem execPha_ended {s t : State} (h : execPha s = .next t) : Ended .pha s t :=
  impliedClass_ended ((kept_throwaway s).trans (kept_push _ _)) h

theorem execPhp_ended {s t : State} (h : execPhp s = .next t) : Ended .php s t :=
  impliedClass_ended ((kept_throwaway s).trans (kept_push _ _)) h

theorem execPla_ended {s t : State} (h : execPla s = .next t) : Ended .pla s t :=
  impliedClass_ended (((kept_throwaway s).trans (kept_pop _)).trans (.of_eq rfl rfl rfl rfl rfl rfl)) h

theorem execPlp_ended {s t : State} (h : execPlp s = .next t) : Ended .plp s t :=
  impliedClass_ended (((kept_throwaway s).trans (kept_pop _)).trans (.of_eq rfl rfl rfl rfl rfl rfl)) h

theorem execClc_ended {s t : State} (h : execClc s = .next t) : Ended .clc s t :=
  impliedClass_ended (.of_eq rfl rfl rfl rfl rfl rfl) h

theorem execCld_ended {s t : State} (h : execCld s = .next t) : Ended .cld s t :=
  impliedClass_ended (.of_eq rfl rfl rfl rfl rfl rfl) h

theorem execCli_ended {s t : State} (h : execCli s = .next t) : Ended .cli s t :=
  impliedClass_ended (.of_eq rfl rfl rfl rfl rfl rfl) h

theorem execClv_ended {s t : State} (h : execClv s = .next t) : Ended .clv s t :=
  impliedClass_ended (.of_eq rfl rfl rfl rfl rfl rfl) h

theorem execSec_ended {s t : State} (h : execSec s = .next t) : Ended .sec s t :=
  impliedClass_ended (.of_eq rfl rfl rfl rfl rfl rfl) h

theorem execSed_ended {s t : State} (h : execSed s = .next t) : Ended .sed s t :=
  impliedClass_ended (.of_eq rfl rfl rfl rfl rfl rfl) h

theorem execSei_ended {s t : State} (h : execSei s = .next t) : Ended .sei s t :=
  impliedClass_ended (.of_eq rfl rfl rfl rfl rfl rfl) h

theorem execNop_ended {s t : State} (h : execNop s = .next t) : Ended .nop s t :=
  impliedClass_ended (.of_eq rfl rfl rfl rfl rfl rfl) h

theorem execBrk_ended (pad : Byte) {s t : State} (h : execBrk pad s = .next t) : Ended (.brk pad) s t :=
  impliedClass_ended (f := fun t => t.interruptEntry irqVector (t.statusByte ||| 0x10)) (kept_interruptEntry _ _ s) h

theorem execRti_ended {s t : State} (h : execRti s = .next t) : Ended .rti s t :=
  impliedClass_ended ((kept_throwaway s).trans (kept_returnFromInterrupt _)) h

theorem execSlo_ended (m : Mode) {s t : State} (h : execSlo m s = .next t) : Ended (.slo m) s t :=
  rmwClass_ended (by intros; exact .of_eq rfl rfl rfl rfl rfl rfl) h

theorem execIsc_ended (m : Mode) {s t : State} (h : execIsc m s = .next t) : Ended (.isc m) s t :=
  rmwClass_ended (by intros; exact .of_eq rfl rfl rfl rfl rfl rfl) h

theorem execRla_ended (m : Mode) {s t : State} (h : execRla m s = .next t) : Ended (.rla m) s t :=
  rmwClass_ended (by intros; exact .of_eq rfl rfl rfl rfl rfl rfl) h

theorem execSre_ended (m : Mode) {s t : State} (h : execSre m s = .next t) : Ended (.sre m) s t :=
  rmwClass_ended (by intros; exact .of_eq rfl rfl rfl rfl rfl rfl) h

theorem execRra_ended (m : Mode) {s t : State} (h : execRra m s = .next t) : Ended (.rra m) s t :=
  rmwClass_ended (by intros; exact .of_eq rfl rfl rfl rfl rfl rfl) h

theorem execDcp_ended (m : Mode) {s t : State} (h : execDcp m s = .next t) : Ended (.dcp m) s t :=
  rmwClass_ended (by intros; exact .of_eq rfl rfl rfl rfl rfl rfl) h

theorem execLax_ended (m : Mode) {s t : State} (h : execLax m s = .next t) : Ended (.lax m) s t :=
  readClass_ended (by intros; exact .of_eq rfl rfl rfl rfl rfl rfl) h

theorem execSax_ended (m : Mode) {s t : State} (h : execSax m s = .next t) : Ended (.sax m) s t :=
  storeClass_ended h

theorem execNopUndoc_ended (op : Byte) (m : Mode) {s t : State}
    (h : execNopUndoc op m s = .next t) : Ended (.nopUndoc op m) s t :=
  readClass_ended (by intros; exact .of_eq rfl rfl rfl rfl rfl rfl) h

theorem execUsbc_ended (v : Byte) {s t : State} (h : execUsbc v s = .next t) : Ended (.usbc v) s t :=
  readClass_ended (by intros; exact .of_eq rfl rfl rfl rfl rfl rfl) h

theorem execAnc_ended (op v : Byte) {s t : State} (h : execAnc op v s = .next t) : Ended (.anc op v) s t :=
  readClass_ended (by intros; exact .of_eq rfl rfl rfl rfl rfl rfl) h

theorem execAlr_ended (v : Byte) {s t : State} (h : execAlr v s = .next t) : Ended (.alr v) s t :=
  readClass_ended (by intros; exact .of_eq rfl rfl rfl rfl rfl rfl) h

theorem execArr_ended (v : Byte) {s t : State} (h : execArr v s = .next t) : Ended (.arr v) s t :=
  readClass_ended (by intros; exact .of_eq rfl rfl rfl rfl rfl rfl) h

theorem execAxs_ended (v : Byte) {s t : State} (h : execAxs v s = .next t) : Ended (.axs v) s t :=
  readClass_ended (by intros; exact .of_eq rfl rfl rfl rfl rfl rfl) h

theorem execLas_ended (w : Word) {s t : State} (h : execLas w s = .next t) : Ended (.las w) s t :=
  readClass_ended (by intros; exact .of_eq rfl rfl rfl rfl rfl rfl) h

theorem execXaa_ended (v : Byte) {s t : State} (h : execXaa v s = .next t) : Ended (.xaa v) s t :=
  readClass_ended (by intros; exact .of_eq rfl rfl rfl rfl rfl rfl) h

theorem execLxa_ended (v : Byte) {s t : State} (h : execLxa v s = .next t) : Ended (.lxa v) s t :=
  readClass_ended (by intros; exact .of_eq rfl rfl rfl rfl rfl rfl) h

theorem execAhx_ended (m : Mode) {s t : State} (h : execAhx m s = .next t) : Ended (.ahx m) s t :=
  unstableStore_ended (by intros; exact .of_eq rfl rfl rfl rfl rfl rfl) h

theorem execShy_ended (w : Word) {s t : State} (h : execShy w s = .next t) : Ended (.shy w) s t :=
  unstableStore_ended (by intros; exact .of_eq rfl rfl rfl rfl rfl rfl) h

theorem execShx_ended (w : Word) {s t : State} (h : execShx w s = .next t) : Ended (.shx w) s t :=
  unstableStore_ended (by intros; exact .of_eq rfl rfl rfl rfl rfl rfl) h

theorem execTas_ended (w : Word) {s t : State} (h : execTas w s = .next t) : Ended (.tas w) s t :=
  unstableStore_ended (by intros; exact .of_eq rfl rfl rfl rfl rfl rfl) h

/-- KIL: halted, `kilCycles` charged, nothing else changed (R134). -/
theorem execKil_inv {op : Byte} {s t : State} (h : execKil op s = .next t) :
    t = { s with halted := true, cycles := s.cycles + s.cfg.kilCycles } ∧ op ∈ kilOpcodes := by
  unfold execKil at h
  have hk {b : Byte} (e : (Instr.kil op).opcodeOf = some b) : b = op ∧ op ∈ kilOpcodes := by
    have := opcodeOf_mem e
    simp only [Instr.forms] at this
    split at this
    · rename_i hc
      exact ⟨congrArg Prod.snd (List.mem_singleton.mp this), by simpa using hc⟩
    · cases this
  rcases withRow_cases (.kil op) s (fun _ => commit { s with halted := true, cycles := s.cycles + s.cfg.kilCycles })
    with ⟨-, e⟩ | ⟨b, ho, hp, -⟩ | ⟨b, ho, -, e⟩
  · rw [e] at h; cases h
  · obtain ⟨rfl, hm⟩ := hk ho
    have : ∀ b ∈ kilOpcodes, optionalOpcodes.contains b = false := by decide
    rw [populates_of_not_optional s.cfg (this b hm)] at hp
    cases hp
  · rw [e] at h
    exact ⟨commit_inv h, (hk ho).2⟩

/-- Everything that can become of a state an instruction goes on from: KIL halts it, any other instruction
raises its failure or keeps what an operation keeps. -/
theorem exec_ended (i : Instr) {s t : State} (h : exec i s = .next t) :
    (∃ op ∈ kilOpcodes, i = .kil op ∧ t = { s with halted := true, cycles := s.cycles + s.cfg.kilCycles }) ∨
    Ended i s t := by
  cases i
  case kil op =>
    obtain ⟨e, hm⟩ := execKil_inv h
    exact .inl ⟨op, hm, rfl, e⟩
  case lda => exact .inr (execLda_ended _ h)
  case ldx => exact .inr (execLdx_ended _ h)
  case ldy => exact .inr (execLdy_ended _ h)
  case sta => exact .inr (execSta_ended _ h)
  case stx => exact .inr (execStx_ended _ h)
  case sty => exact .inr (execSty_ended _ h)
  case tax => exact .inr (execTax_ended h)
  case tay => exact .inr (execTay_ended h)
  case txa => exact .inr (execTxa_ended h)
  case tya => exact .inr (execTya_ended h)
  case tsx => exact .inr (execTsx_ended h)
  case txs => exact .inr (execTxs_ended h)
  case adc => exact .inr (execAdc_ended _ h)
  case sbc => exact .inr (execSbc_ended _ h)
  case and => exact .inr (execAnd_ended _ h)
  case ora => exact .inr (execOra_ended _ h)
  case eor => exact .inr (execEor_ended _ h)
  case cmp => exact .inr (execCmp_ended _ h)
  case cpx => exact .inr (execCpx_ended _ h)
  case cpy => exact .inr (execCpy_ended _ h)
  case bit => exact .inr (execBit_ended _ h)
  case inc => exact .inr (execInc_ended _ h)
  case dec => exact .inr (execDec_ended _ h)
  case inx => exact .inr (execInx_ended h)
  case iny => exact .inr (execIny_ended h)
  case dex => exact .inr (execDex_ended h)
  case dey => exact .inr (execDey_ended h)
  case asl => exact .inr (execAsl_ended _ h)
  case lsr => exact .inr (execLsr_ended _ h)
  case rol => exact .inr (execRol_ended _ h)
  case ror => exact .inr (execRor_ended _ h)
  case bcc => exact .inr (execBcc_ended _ h)
  case bcs => exact .inr (execBcs_ended _ h)
  case beq => exact .inr (execBeq_ended _ h)
  case bmi => exact .inr (execBmi_ended _ h)
  case bne => exact .inr (execBne_ended _ h)
  case bpl => exact .inr (execBpl_ended _ h)
  case bvc => exact .inr (execBvc_ended _ h)
  case bvs => exact .inr (execBvs_ended _ h)
  case jmp => exact .inr (execJmp_ended _ h)
  case jsr => exact .inr (execJsr_ended _ h)
  case rts => exact .inr (execRts_ended h)
  case pha => exact .inr (execPha_ended h)
  case php => exact .inr (execPhp_ended h)
  case pla => exact .inr (execPla_ended h)
  case plp => exact .inr (execPlp_ended h)
  case clc => exact .inr (execClc_ended h)
  case cld => exact .inr (execCld_ended h)
  case cli => exact .inr (execCli_ended h)
  case clv => exact .inr (execClv_ended h)
  case sec => exact .inr (execSec_ended h)
  case sed => exact .inr (execSed_ended h)
  case sei => exact .inr (execSei_ended h)
  case nop => exact .inr (execNop_ended h)
  case brk => exact .inr (execBrk_ended _ h)
  case rti => exact .inr (execRti_ended h)
  case slo => exact .inr (execSlo_ended _ h)
  case isc => exact .inr (execIsc_ended _ h)
  case rla => exact .inr (execRla_ended _ h)
  case sre => exact .inr (execSre_ended _ h)
  case rra => exact .inr (execRra_ended _ h)
  case dcp => exact .inr (execDcp_ended _ h)
  case lax => exact .inr (execLax_ended _ h)
  case sax => exact .inr (execSax_ended _ h)
  case nopUndoc => exact .inr (execNopUndoc_ended _ _ h)
  case usbc => exact .inr (execUsbc_ended _ h)
  case anc => exact .inr (execAnc_ended _ _ h)
  case alr => exact .inr (execAlr_ended _ h)
  case arr => exact .inr (execArr_ended _ h)
  case axs => exact .inr (execAxs_ended _ h)
  case las => exact .inr (execLas_ended _ h)
  case xaa => exact .inr (execXaa_ended _ h)
  case lxa => exact .inr (execLxa_ended _ h)
  case ahx => exact .inr (execAhx_ended _ h)
  case shy => exact .inr (execShy_ended _ h)
  case shx => exact .inr (execShx_ended _ h)
  case tas => exact .inr (execTas_ended _ h)

end Sys2Proof.Machine
end

