-- ==== Sys2Proof/Laws/PerInstr.lean ====
section
/-! SUPPORT. The family Encoding: an instruction has an opcode byte exactly when it is well-formed (the admitted
operand forms and the rows of the encoding agree), and its encoding is as long as its opcode byte says (R80). -/

namespace Sys2Proof.Laws.Encoding

/-- The well-formed instructions are those with a row, and their encoding has the row's length. -/
def Statement (i : Instr) : Prop :=
  i.wellFormed = i.opcodeOf.isSome ∧ ∀ op, i.opcodeOf = some op → (encode i).length = lengthOf op

theorem of_row {i : Instr} {b : Byte} (h : i.opcodeOf = some b) (w : i.wellFormed = true)
    (l : (encode i).length = lengthOf b) : Statement i :=
  ⟨by rw [h, w]; rfl, fun op e => by rw [h] at e; cases e; exact l⟩

/-- The row of an instruction that carries its opcode byte. -/
theorem opcodeOf_own (i : Instr) (op : Byte) {P : Bool} {f : Format}
    (h : i.forms = if P then [(f, op)] else []) (hm : i.mode.format = f) :
    i.opcodeOf = if P then some op else none := by
  unfold Instr.opcodeOf
  rw [h, hm]
  cases P <;> simp

/-- An undocumented NOP is as long as its mode says. -/
theorem undocNop_length (m : Mode) : ∀ b ∈ undocNopOpcodes m.format, lengthOf b = 1 + m.bytes.length := by
  have imp : ∀ b ∈ undocNopOpcodes .IMP, lengthOf b = 1 := by decide
  have imm : ∀ b ∈ undocNopOpcodes .IMM, lengthOf b = 2 := by decide
  have zp : ∀ b ∈ undocNopOpcodes .ZP, lengthOf b = 2 := by decide
  have zpX : ∀ b ∈ undocNopOpcodes .ZPX, lengthOf b = 2 := by decide
  have abs : ∀ b ∈ undocNopOpcodes .ABS, lengthOf b = 3 := by decide
  have absX : ∀ b ∈ undocNopOpcodes .ABSX, lengthOf b = 3 := by decide
  intro b hb
  cases m with
  | imp => exact imp b hb
  | imm => exact imm b hb
  | zp => exact zp b hb
  | zpX => exact zpX b hb
  | abs => exact abs b hb
  | absX => exact absX b hb
  | acc | zpY | absY | ind | izx | izy | rel => exact absurd hb List.not_mem_nil

theorem of_no_row {i : Instr} (h : i.opcodeOf = none) (w : i.wellFormed = false) : Statement i :=
  ⟨by rw [h, w]; rfl, fun op e => by rw [h] at e; cases e⟩

theorem lda (m : Mode) : Statement (.lda m) := by
  cases m <;> first | exact of_row rfl rfl rfl | exact of_no_row rfl rfl

theorem ldx (m : Mode) : Statement (.ldx m) := by
  cases m <;> first | exact of_row rfl rfl rfl | exact of_no_row rfl rfl

theorem ldy (m : Mode) : Statement (.ldy m) := by
  cases m <;> first | exact of_row rfl rfl rfl | exact of_no_row rfl rfl

theorem sta (m : Mode) : Statement (.sta m) := by
  cases m <;> first | exact of_row rfl rfl rfl | exact of_no_row rfl rfl

theorem stx (m : Mode) : Statement (.stx m) := by
  cases m <;> first | exact of_row rfl rfl rfl | exact of_no_row rfl rfl

theorem sty (m : Mode) : Statement (.sty m) := by
  cases m <;> first | exact of_row rfl rfl rfl | exact of_no_row rfl rfl

theorem tax : Statement (.tax) := by
  exact of_row rfl rfl rfl

theorem tay : Statement (.tay) := by
  exact of_row rfl rfl rfl

theorem txa : Statement (.txa) := by
  exact of_row rfl rfl rfl

theorem tya : Statement (.tya) := by
  exact of_row rfl rfl rfl

theorem tsx : Statement (.tsx) := by
  exact of_row rfl rfl rfl

theorem txs : Statement (.txs) := by
  exact of_row rfl rfl rfl

theorem adc (m : Mode) : Statement (.adc m) := by
  cases m <;> first | exact of_row rfl rfl rfl | exact of_no_row rfl rfl

theorem sbc (m : Mode) : Statement (.sbc m) := by
  cases m <;> first | exact of_row rfl rfl rfl | exact of_no_row rfl rfl

theorem and (m : Mode) : Statement (.and m) := by
  cases m <;> first | exact of_row rfl rfl rfl | exact of_no_row rfl rfl

theorem ora (m : Mode) : Statement (.ora m) := by
  cases m <;> first | exact of_row rfl rfl rfl | exact of_no_row rfl rfl

theorem eor (m : Mode) : Statement (.eor m) := by
  cases m <;> first | exact of_row rfl rfl rfl | exact of_no_row rfl rfl

theorem cmp (m : Mode) : Statement (.cmp m) := by
  cases m <;> first | exact of_row rfl rfl rfl | exact of_no_row rfl rfl

theorem cpx (m : Mode) : Statement (.cpx m) := by
  cases m <;> first | exact of_row rfl rfl rfl | exact of_no_row rfl rfl

theorem cpy (m : Mode) : Statement (.cpy m) := by
  cases m <;> first | exact of_row rfl rfl rfl | exact of_no_row rfl rfl

theorem bit (m : Mode) : Statement (.bit m) := by
  cases m <;> first | exact of_row rfl rfl rfl | exact of_no_row rfl rfl

theorem inc (m : Mode) : Statement (.inc m) := by
  cases m <;> first | exact of_row rfl rfl rfl | exact of_no_row rfl rfl

theorem dec (m : Mode) : Statement (.dec m) := by
  cases m <;> first | exact of_row rfl rfl rfl | exact of_no_row rfl rfl

theorem inx : Statement (.inx) := by
  exact of_row rfl rfl rfl

theorem iny : Statement (.iny) := by
  exact of_row rfl rfl rfl

theorem dex : Statement (.dex) := by
  exact of_row rfl rfl rfl

theorem dey : Statement (.dey) := by
  exact of_row rfl rfl rfl

theorem asl (m : Mode) : Statement (.asl m) := by
  cases m <;> first | exact of_row rfl rfl rfl | exact of_no_row rfl rfl

theorem lsr (m : Mode) : Statement (.lsr m) := by
  cases m <;> first | exact of_row rfl rfl rfl | exact of_no_row rfl rfl

theorem rol (m : Mode) : Statement (.rol m) := by
  cases m <;> first | exact of_row rfl rfl rfl | exact of_no_row rfl rfl

theorem ror (m : Mode) : Statement (.ror m) := by
  cases m <;> first | exact of_row rfl rfl rfl | exact of_no_row rfl rfl

theorem bcc (d : Byte) : Statement (.bcc d) := by
  exact of_row rfl rfl rfl

theorem bcs (d : Byte) : Statement (.bcs d) := by
  exact of_row rfl rfl rfl

theorem beq (d : Byte) : Statement (.beq d) := by
  exact of_row rfl rfl rfl

theorem bmi (d : Byte) : Statement (.bmi d) := by
  exact of_row rfl rfl rfl

theorem bne (d : Byte) : Statement (.bne d) := by
  exact of_row rfl rfl rfl

theorem bpl (d : Byte) : Statement (.bpl d) := by
  exact of_row rfl rfl rfl

theorem bvc (d : Byte) : Statement (.bvc d) := by
  exact of_row rfl rfl rfl

theorem bvs (d : Byte) : Statement (.bvs d) := by
  exact of_row rfl rfl rfl

theorem jmp (m : Mode) : Statement (.jmp m) := by
  cases m <;> first | exact of_row rfl rfl rfl | exact of_no_row rfl rfl

theorem jsr (w : Word) : Statement (.jsr w) := by
  exact of_row rfl rfl rfl

theorem rts : Statement (.rts) := by
  exact of_row rfl rfl rfl

theorem pha : Statement (.pha) := by
  exact of_row rfl rfl rfl

theorem php : Statement (.php) := by
  exact of_row rfl rfl rfl

theorem pla : Statement (.pla) := by
  exact of_row rfl rfl rfl

theorem plp : Statement (.plp) := by
  exact of_row rfl rfl rfl

theorem clc : Statement (.clc) := by
  exact of_row rfl rfl rfl

theorem cld : Statement (.cld) := by
  exact of_row rfl rfl rfl

theorem cli : Statement (.cli) := by
  exact of_row rfl rfl rfl

theorem clv : Statement (.clv) := by
  exact of_row rfl rfl rfl

theorem sec : Statement (.sec) := by
  exact of_row rfl rfl rfl

theorem sed : Statement (.sed) := by
  exact of_row rfl rfl rfl

theorem sei : Statement (.sei) := by
  exact of_row rfl rfl rfl

theorem nop : Statement (.nop) := by
  exact of_row rfl rfl rfl

theorem brk (p : Byte) : Statement (.brk p) := by
  exact of_row rfl rfl rfl

theorem rti : Statement (.rti) := by
  exact of_row rfl rfl rfl

theorem kil (op : Byte) : Statement (.kil op) := by
  have hrow := opcodeOf_own (.kil op) op (P := (kilOpcodes).contains op) (f := .IMP) rfl rfl
  by_cases h : (kilOpcodes).contains op = true
  · have hl : ∀ b ∈ kilOpcodes, lengthOf b = 1 := by decide
    rw [if_pos h] at hrow
    refine of_row hrow h ?_
    rw [hl op (by simpa using h)]
    simp [encode, hrow, Instr.operandBytes, Instr.mode, Mode.bytes]
  · rw [if_neg h] at hrow
    exact of_no_row hrow (by simpa [Instr.wellFormed] using h)

theorem slo (m : Mode) : Statement (.slo m) := by
  cases m <;> first | exact of_row rfl rfl rfl | exact of_no_row rfl rfl

theorem isc (m : Mode) : Statement (.isc m) := by
  cases m <;> first | exact of_row rfl rfl rfl | exact of_no_row rfl rfl

theorem rla (m : Mode) : Statement (.rla m) := by
  cases m <;> first | exact of_row rfl rfl rfl | exact of_no_row rfl rfl

theorem sre (m : Mode) : Statement (.sre m) := by
  cases m <;> first | exact of_row rfl rfl rfl | exact of_no_row rfl rfl

theorem rra (m : Mode) : Statement (.rra m) := by
  cases m <;> first | exact of_row rfl rfl rfl | exact of_no_row rfl rfl

theorem dcp (m : Mode) : Statement (.dcp m) := by
  cases m <;> first | exact of_row rfl rfl rfl | exact of_no_row rfl rfl

theorem lax (m : Mode) : Statement (.lax m) := by
  cases m <;> first | exact of_row rfl rfl rfl | exact of_no_row rfl rfl

theorem sax (m : Mode) : Statement (.sax m) := by
  cases m <;> first | exact of_row rfl rfl rfl | exact of_no_row rfl rfl

theorem nopUndoc (op : Byte) (m : Mode) : Statement (.nopUndoc op m) := by
  have hrow := opcodeOf_own (.nopUndoc op m) op (P := (undocNopOpcodes m.format).contains op) (f := m.format) rfl rfl
  by_cases h : (undocNopOpcodes m.format).contains op = true
  · have hl : ∀ b ∈ undocNopOpcodes m.format, lengthOf b = 1 + m.bytes.length := undocNop_length m
    rw [if_pos h] at hrow
    refine of_row hrow h ?_
    rw [hl op (by simpa using h)]
    simp [encode, hrow, Instr.operandBytes, Instr.mode, Nat.add_comm]
  · rw [if_neg h] at hrow
    exact of_no_row hrow (by simpa [Instr.wellFormed] using h)

theorem usbc (v : Byte) : Statement (.usbc v) := by
  exact of_row rfl rfl rfl

theorem anc (op : Byte) (v : Byte) : Statement (.anc op v) := by
  have hrow := opcodeOf_own (.anc op v) op (P := (ancOpcodes).contains op) (f := .IMM) rfl rfl
  by_cases h : (ancOpcodes).contains op = true
  · have hl : ∀ b ∈ ancOpcodes, lengthOf b = 2 := by decide
    rw [if_pos h] at hrow
    refine of_row hrow h ?_
    rw [hl op (by simpa using h)]
    simp [encode, hrow, Instr.operandBytes, Instr.mode, Mode.bytes]
  · rw [if_neg h] at hrow
    exact of_no_row hrow (by simpa [Instr.wellFormed] using h)

theorem alr (v : Byte) : Statement (.alr v) := by
  exact of_row rfl rfl rfl

theorem arr (v : Byte) : Statement (.arr v) := by
  exact of_row rfl rfl rfl

theorem axs (v : Byte) : Statement (.axs v) := by
  exact of_row rfl rfl rfl

theorem las (w : Word) : Statement (.las w) := by
  exact of_row rfl rfl rfl

theorem xaa (v : Byte) : Statement (.xaa v) := by
  exact of_row rfl rfl rfl

theorem lxa (v : Byte) : Statement (.lxa v) := by
  exact of_row rfl rfl rfl

theorem ahx (m : Mode) : Statement (.ahx m) := by
  cases m <;> first | exact of_row rfl rfl rfl | exact of_no_row rfl rfl

theorem shy (w : Word) : Statement (.shy w) := by
  exact of_row rfl rfl rfl

theorem shx (w : Word) : Statement (.shx w) := by
  exact of_row rfl rfl rfl

theorem tas (w : Word) : Statement (.tas w) := by
  exact of_row rfl rfl rfl

end Sys2Proof.Laws.Encoding
end

