-- ==== Sys2Proof/Laws/Stops.lean ====
section
/-! SUPPORT. When an access out of range stops the machine (R52): one law per shared operation, which says which
addresses it accesses and what that makes of the failure record. -/

namespace Sys2Proof.Machine

/-- The record after accesses of `as`: one that is there stays, else the first address beyond the image is kept. -/
def State.faultAfter (s : State) (as : List Word) : Option Fault :=
  s.fault.or ((as.find? s.beyond).map .busOutOfRange)

/-- From `s` to `t` the machine accesses the addresses `as`, in this order. -/
structure Accessed (s t : State) (as : List Word) : Prop where
  dev : t.dev = s.dev
  memSize : t.memSize = s.memSize
  fault : t.fault = s.faultAfter as

theorem State.beyond_congr {s t : State} (hd : t.dev = s.dev) (hm : t.memSize = s.memSize) : t.beyond = s.beyond := by
  funext a
  simp [State.beyond, State.inDev, hd, hm]

theorem State.faultAfter_append (s : State) (as bs : List Word) :
    s.faultAfter (as ++ bs) = (s.faultAfter as).or ((bs.find? s.beyond).map .busOutOfRange) := by
  simp only [State.faultAfter, List.find?_append]
  cases s.fault <;> cases as.find? s.beyond <;> simp

theorem Accessed.trans {s t u : State} {as bs : List Word} (h : Accessed s t as) (k : Accessed t u bs) :
    Accessed s u (as ++ bs) where
  dev := k.dev.trans h.dev
  memSize := k.memSize.trans h.memSize
  fault := by
    rw [k.fault, State.faultAfter_append, State.faultAfter, h.fault, State.beyond_congr h.dev h.memSize]

/-- A change of registers, flags, counters or the record accesses nothing. -/
theorem Accessed.of_eq {s t : State} (hd : t.dev = s.dev) (hm : t.memSize = s.memSize) (hf : t.fault = s.fault) :
    Accessed s t [] := ⟨hd, hm, by simp [State.faultAfter, hf]⟩

/-- Nothing accessed before or after. -/
theorem Accessed.nil_left {s t u : State} {as : List Word} (h : Accessed s t []) (k : Accessed t u as) :
    Accessed s u as := by simpa using h.trans k

theorem Accessed.nil_right {s t u : State} {as : List Word} (h : Accessed s t as) (k : Accessed t u []) :
    Accessed s u as := by simpa using h.trans k

/-- An address accessed twice in a row counts once. -/
theorem Accessed.again {s t u : State} {as : List Word} {a : Word} (h : Accessed s t (as ++ [a]))
    (k : Accessed t u [a]) : Accessed s u (as ++ [a]) := by
  have := h.trans k
  refine ⟨this.dev, this.memSize, this.fault.trans ?_⟩
  simp only [State.faultAfter, List.find?_append]
  cases s.fault <;> cases as.find? s.beyond <;> cases hb : s.beyond a <;> simp [hb]

/-! ### The bus and the stack -/

theorem State.not_reaches (s : State) (a : Word) : (s.reaches a = true) ↔ s.beyond a = false := by
  simp only [State.reaches, State.beyond, Bool.or_eq_true, decide_eq_true_eq, Bool.and_eq_false_iff,
    Bool.not_eq_false', decide_eq_false_iff_not, Nat.not_le]

theorem accessed_busRead (a : Word) (s : State) : Accessed s (s.busRead a).2 [a] where
  dev := by simp
  memSize := by simp
  fault := by
    rw [State.busRead_state]
    cases hb : s.beyond a
    · simp [(s.not_reaches a).mpr hb, State.faultAfter, hb]
    · have : ¬ s.reaches a = true := by rw [s.not_reaches, hb]; simp
      cases hf : s.fault <;> simp [this, State.faultAfter, hb, hf]

theorem accessed_busWrite (a : Word) (v : Byte) (s : State) : Accessed s (s.busWrite a v) [a] where
  dev := by simp
  memSize := by simp
  fault := by
    rw [State.busWrite_state]
    cases hb : s.beyond a
    · simp [(s.not_reaches a).mpr hb, State.faultAfter, hb]
    · have : ¬ s.reaches a = true := by rw [s.not_reaches, hb]; simp
      cases hf : s.fault <;> simp [this, State.faultAfter, hb, hf]

theorem accessed_fetch8 (s : State) : Accessed s s.fetch8.2 [s.pc] :=
  (accessed_busRead s.pc s).nil_right (.of_eq rfl rfl rfl)

theorem accessed_throwaway (s : State) : Accessed s s.throwaway [s.pc] := accessed_busRead s.pc s

theorem accessed_push (v : Byte) (s : State) : Accessed s (s.push v) [stackAddr s.sp] :=
  (accessed_busWrite (stackAddr s.sp) v s).nil_right (.of_eq rfl rfl rfl)

theorem accessed_pop (s : State) : Accessed s s.pop.2 [stackAddr (s.sp + 1)] :=
  Accessed.nil_left (t := { s with sp := s.sp + 1 }) (.of_eq rfl rfl rfl)
    (accessed_busRead (stackAddr (s.sp + 1)) { s with sp := s.sp + 1 })

theorem accessed_readWord (w : Word) (s : State) : Accessed s (s.readWord w).2 [w, w + 1] :=
  (accessed_busRead w s).trans (accessed_busRead _ _)

theorem accessed_pushWord (w : Word) (s : State) :
    Accessed s (s.pushWord w) [stackAddr s.sp, stackAddr (s.sp - 1)] := by
  have h := (accessed_push (hiByte w) s).trans (accessed_push (loByte w) _)
  rw [State.push_sp] at h
  exact h

theorem accessed_popWord (s : State) :
    Accessed s s.popWord.2 [stackAddr (s.sp + 1), stackAddr (s.sp + 2)] := by
  have h := (accessed_pop s).trans (accessed_pop s.pop.2)
  have e : s.pop.2.sp + 1 = s.sp + 2 := by rw [State.pop_sp, BitVec.add_assoc]; rfl
  rw [e] at h
  exact h

theorem accessed_interruptEntry (w : Word) (q : Byte) (s : State) :
    Accessed s (s.interruptEntry w q)
      [stackAddr s.sp, stackAddr (s.sp - 1), stackAddr (s.sp - 2), w, w + 1] := by
  have h := (accessed_pushWord s.pc s).trans (accessed_push q _)
  have e : (s.pushWord s.pc).sp = s.sp - 2 := by simp [State.pushWord, BitVec.sub_sub]
  rw [e] at h
  have h' := h.nil_right
    (u := { (s.pushWord s.pc).push q with p := { ((s.pushWord s.pc).push q).p with i := true } }) (.of_eq rfl rfl rfl)
  exact (h'.trans (accessed_readWord w _)).nil_right (.of_eq rfl rfl rfl)

theorem accessed_returnFromInterrupt (s : State) :
    Accessed s s.returnFromInterrupt [stackAddr (s.sp + 1), stackAddr (s.sp + 2), stackAddr (s.sp + 3)] := by
  have h := ((accessed_pop s).nil_right (u := s.pop.2.setStatus s.pop.1) (.of_eq rfl rfl rfl)).trans
    (accessed_popWord _)
  have e : (s.pop.2.setStatus s.pop.1).sp = s.sp + 1 := State.pop_sp s
  have e1 : s.sp + 1 + 1 = s.sp + 2 := by rw [BitVec.add_assoc]; rfl
  have e2 : s.sp + 1 + 2 = s.sp + 3 := by rw [BitVec.add_assoc]; rfl
  rw [e, e1, e2] at h
  exact h.nil_right (.of_eq rfl rfl rfl)

/-! ### Resolvers and operands -/

theorem accessed_zpPointer (q : Byte) (s : State) : Accessed s (s.zpPointer q).2 (s.zpReads q) := by
  have h := (accessed_busRead (zext16 q) s).trans (accessed_busRead (zpNext s.cfg.zpPointerWrap q) _)
  exact h

theorem accessed_jmpPointer (w : Word) (s : State) :
    Accessed s (s.jmpPointer w).2 [w, if w.toNat % 256 = 255 then w - 255 else w + 1] := by
  rw [← cat_next_in_page]
  exact (accessed_busRead w s).trans (accessed_busRead (cat (hiByte w) (loByte w + 1)) _)

theorem accessed_resolve (m : Mode) (s : State) : Accessed s (s.resolve m).2 (s.pointerReads m) := by
  cases m <;>
    first
    | exact .of_eq rfl rfl rfl
    | exact accessed_jmpPointer _ s
    | exact accessed_zpPointer _ s

/-- The operand of a mode with an effective address. -/
theorem accessed_readOperand {m : Mode} (h : m ≠ .imp) (h' : m ≠ .acc) (h'' : ∀ v, m ≠ .imm v) (s : State) :
    Accessed s (s.readOperand m).st (s.pointerReads m ++ [(s.resolve m).1.ea]) := by
  rw [State.readOperand_memory s h h' h'']
  exact (accessed_resolve m s).trans (accessed_busRead _ _)

theorem accessed_rmw {m : Mode} (h : m ≠ .acc) (k : ByteCore) (s : State) :
    Accessed s (s.rmw m k).st (s.pointerReads m ++ [(s.resolve m).1.ea]) := by
  rw [State.rmw_memory k s h]
  exact ((((accessed_resolve m s).trans (accessed_busRead _ _)).again (accessed_busWrite _ _ _)).again
    (accessed_busWrite _ _ _)).nil_right (.of_eq rfl rfl rfl)

/-! ### The end of an instruction -/

/-- What the end of an instruction answers: the stop at the first address beyond the image, or a next state. -/
def Stops (s : State) (as : List Word) (r : Result) : Prop :=
  s.StopsIn as r ∧ (as.find? s.beyond = none → ∃ t, r = .next t)

theorem stops_commit {s t : State} {as : List Word} (hs : s.fault = none) (h : Accessed s t as) :
    Stops s as (commit t) := by
  have hf := h.fault
  simp only [State.faultAfter, hs, Option.none_or] at hf
  refine ⟨fun a ha => ?_, fun hn => ⟨t, commit_next ?_⟩⟩
  · rw [ha] at hf
    simp only [Option.map_some] at hf
    unfold commit
    rw [hf]
  · rw [hf, hn]; rfl

theorem stops_complete {s t : State} {as : List Word} (hs : s.fault = none) (h : Accessed s t as) (op : Byte)
    (n : Nat) : Stops s as (complete op n t) :=
  stops_commit hs (h.nil_right (.of_eq rfl rfl rfl))

/-! ### The instruction classes -/

section
variable {i : Instr} {op : Byte} {s : State} (h : i.opcodeOf = some op) (hp : s.cfg.populates op = true)
  (hs : s.fault = none)
include h hp hs

theorem readClass_stops {m : Mode} {as : List Word} (f : Byte → State → State)
    (ha : Accessed s (s.readOperand m).st as) (hf : ∀ v u, Accessed u (f v u) []) :
    Stops s as (readClass i m f s) := by
  unfold readClass
  rw [withRow_some h hp]
  exact stops_complete hs (ha.nil_right (hf _ _)) op _

theorem storeClass_stops (m : Mode) (v : State → Byte) :
    Stops s (s.pointerReads m ++ [(s.resolve m).1.ea]) (storeClass i m v s) := by
  unfold storeClass
  rw [withRow_some h hp]
  exact stops_complete hs ((accessed_resolve m s).trans (accessed_busWrite _ _ _)) op _

theorem rmwClass_stops {m : Mode} (hm : m ≠ .acc) (k : ByteCore) (f : Byte → State → State)
    (hf : ∀ v u, Accessed u (f v u) []) :
    Stops s (s.pointerReads m ++ [(s.resolve m).1.ea]) (rmwClass i m k f s) := by
  unfold rmwClass
  rw [withRow_some h hp]
  exact stops_complete hs ((accessed_rmw hm k s).nil_right (hf _ _)) op _

theorem impliedClass_stops {as : List Word} {f : State → State} (ha : Accessed s (f s) as) :
    Stops s as (impliedClass i f s) := by
  unfold impliedClass
  rw [withRow_some h hp]
  exact stops_complete hs ha op _

theorem branchClass_stops (c : Bool) (d : Byte) : Stops s [] (branchClass i c d s) := by
  unfold branchClass
  rw [withRow_some h hp]
  cases c
  · exact stops_complete (t := s) hs (.of_eq rfl rfl rfl) op _
  · exact stops_complete (t := { s with pc := s.pc + sext16 d }) hs (.of_eq rfl rfl rfl) op _

theorem unstableStore_stops (m : Mode) (pre : State → State) (v : State → Byte)
    (hf : ∀ u, pre u = { u with sp := (pre u).sp }) :
    Stops s (s.pointerReads m ++ [s.unstableAddr m]) (unstableStore i m pre v s) := by
  have hr := (accessed_resolve m s).nil_right (u := pre (s.resolve m).2) (by rw [hf]; exact .of_eq rfl rfl rfl)
  unfold unstableStore State.unstableAddr
  rw [withRow_some h hp]
  by_cases hc : (s.resolve m).1.crossed = true
  · simp only [hc, if_true]
    have ha : (pre (s.resolve m).2).drawWord.1 = Config.freeWord (s.resolve m).2.draws := by rw [hf]; rfl
    rw [← ha]
    have hd := hr.nil_right (u := (pre (s.resolve m).2).drawWord.2.drawByte.2) (.of_eq rfl rfl rfl)
    exact stops_complete hs (hd.trans (accessed_busWrite _ _ _)) op _
  · simp only [hc]
    exact stops_complete hs (hr.trans (accessed_busWrite _ _ _)) op _

end

end Sys2Proof.Machine
end

