-- ==== Sys2Proof/Tests/Slice0.lean ====
section
/-! SUPPORT. The model's own tests: words written from the encodings of the spec, ill-formed terms that are
refused, vectors of 95_test_vectors.md (section 2, whose ids the tests carry), and for every obligation that has
hypotheses a state and operands that meet them. -/

namespace Sys2Proof.Machine.Tests

open Sys2Proof Sys2Proof.Machine

/-! ### The states the tests start from -/

/-- Every flag 0. -/
def clear : Flags := { c := false, z := false, i := false, d := false, b := false, v := false, n := false }

/-- Every optional opcode populated, and a value for each OPEN parameter. -/
def populatedCfg : Config where
  undocPopulated := optionalOpcodes
  illegalLabelled := []
  baseCycles := []
  penaltyOnWrites := false
  zpPointerWrap := true
  kilCycles := 2
  bit5Value := false

/-- No optional opcode populated, one of them labelled `IllegalInstruction`. -/
def plainCfg : Config := { populatedCfg with undocPopulated := [], illegalLabelled := [0x8B] }

/-- The start state of section 2 of 95_test_vectors.md. -/
def idle : State where
  a := 0
  x := 0
  y := 0
  sp := 0xFD
  pc := 0x0200
  p := clear
  cycles := 0
  halted := false
  fault := none
  mem := []
  memSize := 65536
  dev := []
  bus := []
  draws := 0
  cfg := populatedCfg

/-- Sets cells. -/
def cells (l : List (Word × Byte)) (s : State) : State := l.foldl (fun s e => s.poke e.1 e.2) s

/-- The state with an instruction's bytes at PC and the given cells set. -/
def put (bytes : List Byte) (l : List (Word × Byte)) (s : State) : State := cells l (s.placeBytes s.pc bytes)

/-- The next state of an outcome. -/
def nextOf : Result → Option State
  | .next t => some t
  | .fault _ => none
  | .refused _ => none

/-- What is seen of the state one step after `put`. -/
def after {α : Type} (bytes : List Byte) (l : List (Word × Byte)) (s : State) (see : State → α) : Option α :=
  (nextOf (step (put bytes l s))).map see

/-- The writes on the bus record, the oldest first. -/
def writes (t : State) : List (Word × Byte) :=
  t.bus.reverse.filterMap fun e =>
    match e with
    | .write a v => some (a, v)
    | .read _ _ => none

/-- The addresses on the bus record, the oldest first, a write marked `true`. -/
def trace (t : State) : List (Bool × Word) :=
  t.bus.reverse.map fun e =>
    match e with
    | .write a _ => (true, a)
    | .read a _ => (false, a)

/-! ### Vectors of 95_test_vectors.md -/

/-- V5 (R150): `LDA ($40),Y`. -/
theorem test_v5_lda :
    after [0xB1, 0x40] [(0x0040, 0xF0), (0x0041, 0x12), (0x1310, 0x99)]
        { idle with y := 0x20 } (fun t => (t.a, t.p.n, t.cycles)) =
      some (0x99, true, 6) := by decide

/-- V8 (R150): `LDA $FFFF,X`. -/
theorem test_v8_lda :
    after [0xBD, 0xFF, 0xFF] [(0x0000, 0x21)]
        { idle with x := 0x01 } (fun t => (t.a, t.cycles)) =
      some (0x21, 5) := by decide

/-- V9 (R151): `LDX $FF,Y`. -/
theorem test_v9_ldx :
    after [0xB6, 0xFF] [(0x0001, 0x81)]
        { idle with y := 0x02 } (fun t => (t.x, t.p.n, t.cycles)) =
      some (0x81, true, 4) := by decide

/-- V10 (R151): `LDX $12F0,Y`. -/
theorem test_v10_ldx :
    after [0xBE, 0xF0, 0x12] [(0x1300, 0x00)]
        { idle with y := 0x10 } (fun t => (t.p.z, t.cycles)) =
      some (true, 5) := by decide

/-- V11 (R152): `LDY $F0,X`. -/
theorem test_v11_ldy :
    after [0xB4, 0xF0] [(0x0010, 0x7F)]
        { idle with x := 0x20 } (fun t => (t.y, t.cycles)) =
      some (0x7F, 4) := by decide

/-- V12 (R153): `STA $12F0,X`. -/
theorem test_v12_sta :
    after [0x9D, 0xF0, 0x12] []
        { idle with a := 0x5A, x := 0x10 } (fun t => (writes t, t.cycles)) =
      some ([(0x1300, 0x5A)], 5) := by decide

/-- V13 (R153): `STA ($40),Y`. -/
theorem test_v13_sta :
    after [0x91, 0x40] [(0x0040, 0x01), (0x0041, 0x20)]
        { idle with a := 0x01, y := 0xFF } (fun t => (writes t, t.cycles)) =
      some ([(0x2100, 0x01)], 6) := by decide

/-- V14 (R154): `STX $FF,Y`. -/
theorem test_v14_stx :
    after [0x96, 0xFF] []
        { idle with x := 0xAB, y := 0x01 } (fun t => (writes t, t.cycles)) =
      some ([(0x0000, 0xAB)], 4) := by decide

/-- V15 (R155): `STY $0300`. -/
theorem test_v15_sty :
    after [0x8C, 0x00, 0x03] []
        { idle with y := 0xC3, p := { clear with n := true } } (fun t => (writes t, t.cycles)) =
      some ([(0x0300, 0xC3)], 4) := by decide

/-- V16 (R156): `TAX`. -/
theorem test_v16_tax :
    after [0xAA] []
        { idle with a := 0x00, x := 0x33 } (fun t => (t.x, t.p.z, t.cycles)) =
      some (0x00, true, 2) := by decide

/-- V17 (R157): `TAY`. -/
theorem test_v17_tay :
    after [0xA8] []
        { idle with a := 0x90 } (fun t => (t.y, t.p.n, t.cycles)) =
      some (0x90, true, 2) := by decide

/-- V18 (R158): `TXA`. -/
theorem test_v18_txa :
    after [0x8A] []
        { idle with x := 0x7F, a := 0x80, p := { clear with n := true } } (fun t => (t.a, t.p.n, t.cycles)) =
      some (0x7F, false, 2) := by decide

/-- V19 (R159): `TYA`. -/
theorem test_v19_tya :
    after [0x98] []
        { idle with y := 0x00, a := 0x01 } (fun t => (t.a, t.p.z, t.cycles)) =
      some (0x00, true, 2) := by decide

/-- V20 (R160): `TSX`. -/
theorem test_v20_tsx :
    after [0xBA] []
        { idle with sp := 0xFD } (fun t => (t.x, t.p.n, t.cycles)) =
      some (0xFD, true, 2) := by decide

/-- V21 (R161): `TXS`. -/
theorem test_v21_txs :
    after [0x9A] []
        { idle with x := 0x00, p := { clear with n := true } } (fun t => (t.sp, t.cycles)) =
      some (0x00, 2) := by decide

/-- V22 (R183): `ADC #$01`. -/
theorem test_v22_adc :
    after [0x69, 0x01] []
        { idle with a := 0xFF } (fun t => (t.a, t.p.z, t.p.c, t.cycles)) =
      some (0x00, true, true, 2) := by decide

/-- V25 (R183): `ADC #$00 (C=1)`. -/
theorem test_v25_adc :
    after [0x69, 0x00] []
        { idle with a := 0x7F, p := { clear with c := true } } (fun t => (t.a, t.p, t.cycles)) =
      some (0x80, { clear with n := true, v := true }, 2) := by decide

/-- V29 (R184): `SBC #$01 (C=0)`. -/
theorem test_v29_sbc :
    after [0xE9, 0x01] []
        { idle with a := 0x05 } (fun t => (t.a, t.p.c, t.cycles)) =
      some (0x03, true, 2) := by decide

/-- V31 (R184): `SBC #$B0 (C=1)`. -/
theorem test_v31_sbc :
    after [0xE9, 0xB0] []
        { idle with a := 0x50, p := { clear with c := true } } (fun t => (t.a, t.p, t.cycles)) =
      some (0xA0, { clear with n := true, v := true }, 2) := by decide

/-- V34 (R185): `AND #$C0`. -/
theorem test_v34_and :
    after [0x29, 0xC0] []
        { idle with a := 0xFF, p := { clear with c := true, v := true } } (fun t => (t.a, t.p.n, t.cycles)) =
      some (0xC0, true, 2) := by decide

/-- V35 (R186): `ORA #$80`. -/
theorem test_v35_ora :
    after [0x09, 0x80] []
        { idle with a := 0x01 } (fun t => (t.a, t.p.n, t.cycles)) =
      some (0x81, true, 2) := by decide

/-- V38 (R187): `EOR #$FF`. -/
theorem test_v38_eor :
    after [0x49, 0xFF] []
        { idle with a := 0x0F } (fun t => (t.a, t.p.n, t.cycles)) =
      some (0xF0, true, 2) := by decide

/-- V40 (R188): `CMP #$10 (C=0 before)`. -/
theorem test_v40_cmp :
    after [0xC9, 0x10] []
        { idle with a := 0x10 } (fun t => (t.p.z, t.p.c, t.cycles)) =
      some (true, true, 2) := by decide

/-- V41 (R188): `CMP #$01`. -/
theorem test_v41_cmp :
    after [0xC9, 0x01] []
        { idle with a := 0xFF } (fun t => (t.p.n, t.p.c, t.cycles)) =
      some (true, true, 2) := by decide

/-- V44 (R189): `CPX $20`. -/
theorem test_v44_cpx :
    after [0xE4, 0x20] [(0x0020, 0x01)]
        { idle with x := 0x80 } (fun t => (t.p.c, t.cycles)) =
      some (true, 3) := by decide

/-- V45 (R190): `CPY #$01`. -/
theorem test_v45_cpy :
    after [0xC0, 0x01] []
        { idle with y := 0x00 } (fun t => (t.p.n, t.cycles)) =
      some (true, 2) := by decide

/-- V46 (R191): `BIT $20`. -/
theorem test_v46_bit :
    after [0x24, 0x20] [(0x0020, 0xC0)]
        { idle with a := 0x00 } (fun t => (t.p, t.cycles)) =
      some ({ clear with n := true, v := true, z := true }, 3) := by decide

/-- V47 (R191): `BIT $0300`. -/
theorem test_v47_bit :
    after [0x2C, 0x00, 0x03] [(0x0300, 0x41)]
        { idle with a := 0x01 } (fun t => (t.p.v, t.cycles)) =
      some (true, 4) := by decide

/-- V49 (R192): `INC $12FF,X`. -/
theorem test_v49_inc :
    after [0xFE, 0xFF, 0x12] [(0x1300, 0x7F)]
        { idle with x := 0x01 } (fun t => (t.p.n, writes t, t.cycles)) =
      some (true, [(0x1300, 0x7F), (0x1300, 0x80)], 7) := by decide

/-- V48 (R192): `INC $20`. -/
theorem test_v48_inc :
    after [0xE6, 0x20] [(0x0020, 0xFF)]
        idle (fun t => (t.p.z, writes t, t.cycles)) =
      some (true, [(0x0020, 0xFF), (0x0020, 0x00)], 5) := by decide

/-- V51 (R193): `DEC $20,X`. -/
theorem test_v51_dec :
    after [0xD6, 0x20] [(0x0001, 0x01)]
        { idle with x := 0xE1 } (fun t => (t.p.z, writes t, t.cycles)) =
      some (true, [(0x0001, 0x01), (0x0001, 0x00)], 6) := by decide

/-- V50 (R193): `DEC $20`. -/
theorem test_v50_dec :
    after [0xC6, 0x20] [(0x0020, 0x00)]
        idle (fun t => (t.p.n, writes t, t.cycles)) =
      some (true, [(0x0020, 0x00), (0x0020, 0xFF)], 5) := by decide

/-- V52 (R194): `INX`. -/
theorem test_v52_inx :
    after [0xE8] []
        { idle with x := 0xFF } (fun t => (t.x, t.p.z, t.cycles)) =
      some (0x00, true, 2) := by decide

/-- V53 (R195): `INY`. -/
theorem test_v53_iny :
    after [0xC8] []
        { idle with y := 0x7F } (fun t => (t.y, t.p.n, t.cycles)) =
      some (0x80, true, 2) := by decide

/-- V54 (R196): `DEX`. -/
theorem test_v54_dex :
    after [0xCA] []
        { idle with x := 0x00 } (fun t => (t.x, t.p.n, t.cycles)) =
      some (0xFF, true, 2) := by decide

/-- V55 (R197): `DEY`. -/
theorem test_v55_dey :
    after [0x88] []
        { idle with y := 0x01 } (fun t => (t.y, t.p.z, t.cycles)) =
      some (0x00, true, 2) := by decide

/-- V56 (R231): `ASL A`. -/
theorem test_v56_asl :
    after [0x0A] []
        { idle with a := 0x80 } (fun t => (t.a, t.p.z, t.p.c, t.cycles)) =
      some (0x00, true, true, 2) := by decide

/-- V58 (R231): `ASL $12F0,X`. -/
theorem test_v58_asl :
    after [0x1E, 0xF0, 0x12] [(0x1300, 0x01)]
        { idle with x := 0x10 } (fun t => (writes t, t.cycles)) =
      some ([(0x1300, 0x01), (0x1300, 0x02)], 7) := by decide

/-- V59 (R232): `LSR A`. -/
theorem test_v59_lsr :
    after [0x4A] []
        { idle with a := 0x01, p := { clear with n := true } } (fun t => (t.a, t.p, t.cycles)) =
      some (0x00, { clear with z := true, c := true }, 2) := by decide

/-- V60 (R232): `LSR $0300`. -/
theorem test_v60_lsr :
    after [0x4E, 0x00, 0x03] [(0x0300, 0xFF)]
        idle (fun t => (t.p.c, writes t, t.cycles)) =
      some (true, [(0x0300, 0xFF), (0x0300, 0x7F)], 6) := by decide

/-- V61 (R233): `ROL A (C=1)`. -/
theorem test_v61_rol :
    after [0x2A] []
        { idle with a := 0x80, p := { clear with c := true } } (fun t => (t.a, t.cycles)) =
      some (0x01, 2) := by decide

/-- V63 (R233): `ROL $20,X`. -/
theorem test_v63_rol :
    after [0x36, 0x20] [(0x0021, 0x40)]
        { idle with x := 0x01, p := { clear with c := true } } (fun t => (t.p.n, t.p.c, writes t, t.cycles)) =
      some (true, false, [(0x0021, 0x40), (0x0021, 0x81)], 6) := by decide

/-- V64 (R234): `ROR A (C=1)`. -/
theorem test_v64_ror :
    after [0x6A] []
        { idle with a := 0x00, p := { clear with c := true } } (fun t => (t.a, t.p.n, t.p.c, t.cycles)) =
      some (0x80, true, false, 2) := by decide

/-- V66 (R234): `ROR $20`. -/
theorem test_v66_ror :
    after [0x66, 0x20] [(0x0020, 0x02)]
        { idle with p := { clear with c := true } } (fun t => (t.p.n, t.p.c, writes t, t.cycles)) =
      some (true, false, [(0x0020, 0x02), (0x0020, 0x81)], 5) := by decide

/-- V67 (R251): `BCC +2 (C=0)`. -/
theorem test_v67_bcc :
    after [0x90, 0x02] []
        idle (fun t => (t.pc, t.cycles)) =
      some (0x0204, 3) := by decide

/-- V68 (R252): `BCS +16 (C=0)`. -/
theorem test_v68_bcs :
    after [0xB0, 0x10] []
        idle (fun t => (t.pc, t.cycles)) =
      some (0x0202, 2) := by decide

/-- V69 (R253): `BEQ +0x7F (Z=1) at 0x02F0`. -/
theorem test_v69_beq :
    after [0xF0, 0x7F] []
        { idle with pc := 0x02F0, p := { clear with z := true } } (fun t => (t.pc, t.cycles)) =
      some (0x0371, 4) := by decide

/-- V70 (R254): `BMI -128 (N=1) at 0x0400`. -/
theorem test_v70_bmi :
    after [0x30, 0x80] []
        { idle with pc := 0x0400, p := { clear with n := true } } (fun t => (t.pc, t.cycles)) =
      some (0x0382, 4) := by decide

/-- V71 (R255): `BNE -4 (Z=0) at 0x0210`. -/
theorem test_v71_bne :
    after [0xD0, 0xFC] []
        { idle with pc := 0x0210 } (fun t => (t.pc, t.cycles)) =
      some (0x020E, 3) := by decide

/-- V76 (R250): `BNE +2 (Z=0) at 0x02FD, target 0x0301`. -/
theorem test_v76_bne :
    after [0xD0, 0x02] []
        { idle with pc := 0x02FD } (fun t => (t.pc, t.cycles)) =
      some (0x0301, 4) := by decide

/-- V73 (R256): `BPL +0 (N=0)`. -/
theorem test_v73_bpl :
    after [0x10, 0x00] []
        idle (fun t => (t.pc, t.cycles)) =
      some (0x0202, 3) := by decide

/-- V74 (R257): `BVC +5 (V=1)`. -/
theorem test_v74_bvc :
    after [0x50, 0x05] []
        { idle with p := { clear with v := true } } (fun t => (t.pc, t.cycles)) =
      some (0x0202, 2) := by decide

/-- V75 (R258): `BVS +5 (V=1)`. -/
theorem test_v75_bvs :
    after [0x70, 0x05] []
        { idle with p := { clear with v := true } } (fun t => (t.pc, t.cycles)) =
      some (0x0207, 3) := by decide

/-- V77 (R250): `BEQ -3 (Z=1) at 0x0000, target 0xFFFF`. -/
theorem test_v77_beq :
    after [0xF0, 0xFD] []
        { idle with pc := 0x0000, p := { clear with z := true } } (fun t => (t.pc, t.cycles)) =
      some (0xFFFF, 4) := by decide

/-- V79 (R259): `JMP ($30FF)`. -/
theorem test_v79_jmp :
    after [0x6C, 0xFF, 0x30] [(0x30FF, 0x80), (0x3000, 0x50), (0x3100, 0x40)]
        idle (fun t => (t.pc, t.cycles)) =
      some (0x5080, 5) := by decide

/-- V78 (R259): `JMP $1234`. -/
theorem test_v78_jmp :
    after [0x4C, 0x34, 0x12] []
        idle (fun t => (t.pc, t.cycles)) =
      some (0x1234, 3) := by decide

/-- V81 (R260): `JSR $8000 at 0x0600`. -/
theorem test_v81_jsr :
    after [0x20, 0x00, 0x80] []
        { idle with pc := 0x0600 } (fun t => (t.sp, t.pc, writes t, t.cycles)) =
      some (0xFB, 0x8000, [(0x01FD, 0x06), (0x01FC, 0x02)], 6) := by decide

/-- V82 (R260): `JSR $8000 at 0x0600, SP=0x00`. -/
theorem test_v82_jsr :
    after [0x20, 0x00, 0x80] []
        { idle with sp := 0x00, pc := 0x0600 } (fun t => (t.sp, t.pc, writes t, t.cycles)) =
      some (0xFE, 0x8000, [(0x0100, 0x06), (0x01FF, 0x02)], 6) := by decide

/-- V83 (R261): `RTS`. -/
theorem test_v83_rts :
    after [0x60] [(0x01FC, 0x02), (0x01FD, 0x06)]
        { idle with sp := 0xFB } (fun t => (t.sp, t.pc, t.cycles)) =
      some (0xFD, 0x0603, 6) := by decide

/-- V84 (R261): `RTS, popped 0xFFFF`. -/
theorem test_v84_rts :
    after [0x60] [(0x01FC, 0xFF), (0x01FD, 0xFF)]
        { idle with sp := 0xFB } (fun t => (t.sp, t.pc, t.cycles)) =
      some (0xFD, 0x0000, 6) := by decide

/-- V86 (R280): `PHA`. -/
theorem test_v86_pha :
    after [0x48] []
        { idle with a := 0x33 } (fun t => (t.sp, writes t, t.cycles)) =
      some (0xFC, [(0x01FD, 0x33)], 3) := by decide

/-- V87 (R280): `PHA, SP=0x00`. -/
theorem test_v87_pha :
    after [0x48] []
        { idle with a := 0x44, sp := 0x00 } (fun t => (t.sp, writes t, t.cycles)) =
      some (0xFF, [(0x0100, 0x44)], 3) := by decide

/-- V88 (R281): `PHP after reset flags`. -/
theorem test_v88_php :
    after [0x08] []
        { idle with p := { clear with i := true, z := true } } (fun t => (t.sp, writes t, t.cycles)) =
      some (0xFC, [(0x01FD, 0x16)], 3) := by decide

/-- V89 (R281): `PHP, all flags 1`. -/
theorem test_v89_php :
    after [0x08] []
        { idle with p := { clear with n := true, v := true, b := true, d := true, i := true, z := true, c := true } }
        (fun t => (t.sp, writes t, t.cycles)) =
      some (0xFC, [(0x01FD, 0xDF)], 3) := by decide

/-- V90 (R282): `PLA`. -/
theorem test_v90_pla :
    after [0x68] [(0x01FD, 0x80)]
        { idle with sp := 0xFC } (fun t => (t.a, t.sp, t.p.n, t.cycles)) =
      some (0x80, 0xFD, true, 4) := by decide

/-- V91 (R282): `PLA, SP=0xFF`. -/
theorem test_v91_pla :
    after [0x68] [(0x0100, 0x00)]
        { idle with sp := 0xFF } (fun t => (t.sp, t.p.z, t.cycles)) =
      some (0x00, true, 4) := by decide

/-- V92 (R283): `PLP 0xFF`. -/
theorem test_v92_plp :
    after [0x28] [(0x01FD, 0xFF)]
        { idle with sp := 0xFC } (fun t => (t.sp, t.p, t.cycles)) =
      some (0xFD, { clear with n := true, v := true, b := true, d := true, i := true, z := true, c := true }, 4) := by decide

/-- V93 (R283): `PLP 0x20 (only bit 5)`. -/
theorem test_v93_plp :
    after [0x28] [(0x01FD, 0x20)]
        { idle with sp := 0xFC, p := { clear with n := true, c := true } }
        (fun t => (t.sp, t.p.n, t.p.c, t.cycles)) =
      some (0xFD, false, false, 4) := by decide

/-- V94 (R284): `CLC`. -/
theorem test_v94_clc :
    after [0x18] []
        { idle with p := { clear with c := true } } (fun t => (t.p.c, t.cycles)) =
      some (false, 2) := by decide

/-- V95 (R285): `CLD`. -/
theorem test_v95_cld :
    after [0xD8] []
        { idle with p := { clear with d := true } } (fun t => (t.p.d, t.cycles)) =
      some (false, 2) := by decide

/-- V96 (R286): `CLI`. -/
theorem test_v96_cli :
    after [0x58] []
        { idle with p := { clear with i := true } } (fun t => (t.p.i, t.cycles)) =
      some (false, 2) := by decide

/-- V97 (R287): `CLV`. -/
theorem test_v97_clv :
    after [0xB8] []
        { idle with p := { clear with v := true } } (fun t => (t.p.v, t.cycles)) =
      some (false, 2) := by decide

/-- V98 (R288): `SEC`. -/
theorem test_v98_sec :
    after [0x38] []
        idle (fun t => (t.p.c, t.cycles)) =
      some (true, 2) := by decide

/-- V99 (R289): `SED`. -/
theorem test_v99_sed :
    after [0xF8] []
        idle (fun t => (t.p.d, t.cycles)) =
      some (true, 2) := by decide

/-- V100 (R290): `SEI`. -/
theorem test_v100_sei :
    after [0x78] []
        idle (fun t => (t.p.i, t.cycles)) =
      some (true, 2) := by decide

/-- V101 (R291): `NOP`. -/
theorem test_v101_nop :
    after [0xEA] []
        idle (fun t => (t.pc, t.cycles)) =
      some (0x0201, 2) := by decide

/-- V102 (R292): `BRK at 0x0400 (vector 0x9000)`. -/
theorem test_v102_brk :
    after [0x00, 0xAA] [(0xFFFE, 0x00), (0xFFFF, 0x90)]
        { idle with pc := 0x0400 } (fun t => (t.pc, t.p.i, writes t, t.cycles)) =
      some (0x9000, true, [(0x01FD, 0x04), (0x01FC, 0x02), (0x01FB, 0x10)], 7) := by decide

/-- V104 (R293): `RTI`. -/
theorem test_v104_rti :
    after [0x40] [(0x01FB, 0x10), (0x01FC, 0x02), (0x01FD, 0x04)]
        { idle with sp := 0xFA } (fun t => (t.sp, t.pc, t.p.b, t.cycles)) =
      some (0xFD, 0x0402, true, 6) := by decide

/-- V105 (R293): `RTI, popped P=0xE3`. -/
theorem test_v105_rti :
    after [0x40] [(0x01FB, 0xE3), (0x01FC, 0x00), (0x01FD, 0x80)]
        { idle with sp := 0xFA, p := { clear with i := true } } (fun t => (t.sp, t.pc, t.p, t.cycles)) =
      some (0xFD, 0x8000, { clear with n := true, v := true, z := true, c := true }, 6) := by decide

/-- V106 (R311): `KIL (0x02)`. -/
theorem test_v106_kil :
    after [0x02] []
        idle (fun t => (t.pc, t.halted)) =
      some (0x0201, true) := by decide

/-- V107 (R311): `KIL (0xF2)`. -/
theorem test_v107_kil :
    after [0xF2] []
        { idle with a := 0x12 } (fun t => (t.pc, t.halted)) =
      some (0x0201, true) := by decide

/-- V108 (R312): `SLO $10`. -/
theorem test_v108_slo :
    after [0x07, 0x10] [(0x0010, 0x81)]
        { idle with a := 0x01 } (fun t => (t.a, t.p.c, writes t, t.cycles)) =
      some (0x03, true, [(0x0010, 0x81), (0x0010, 0x02)], 5) := by decide

/-- V110 (R312): `SLO ($20,X)`. -/
theorem test_v110_slo :
    after [0x03, 0x20] [(0x0022, 0x00), (0x0023, 0x03), (0x0300, 0x00)]
        { idle with a := 0x80, x := 0x02 } (fun t => (t.p.n, writes t, t.cycles)) =
      some (true, [(0x0300, 0x00), (0x0300, 0x00)], 8) := by decide

/-- V112 (R313): `ISC $20 (old 0xFF, C=0)`. -/
theorem test_v112_isc :
    after [0xE7, 0x20] [(0x0020, 0xFF)]
        { idle with a := 0x05 } (fun t => (t.a, t.p.c, writes t, t.cycles)) =
      some (0x04, true, [(0x0020, 0xFF), (0x0020, 0x00)], 5) := by decide

/-- V113 (R313): `ISC ($40),Y`. -/
theorem test_v113_isc :
    after [0xF3, 0x40] [(0x0040, 0xFF), (0x0041, 0x02), (0x0300, 0x00)]
        { idle with a := 0x80, y := 0x01, p := { clear with c := true } }
        (fun t => (t.a, t.p.v, writes t, t.cycles)) =
      some (0x7F, true, [(0x0300, 0x00), (0x0300, 0x01)], 8) := by decide

/-- V117 (R314): `RLA $10 (0x27)`. -/
theorem test_v117_rla :
    after [0x27, 0x10] [(0x0010, 0x80)]
        { idle with a := 0xFF, p := { clear with c := true } } (fun t => (t.a, writes t, t.cycles)) =
      some (0x01, [(0x0010, 0x80), (0x0010, 0x01)], 5) := by decide

/-- V118 (R315): `SRE $10 (0x47)`. -/
theorem test_v118_sre :
    after [0x47, 0x10] [(0x0010, 0x03)]
        { idle with a := 0x0F } (fun t => (t.a, t.p.c, writes t, t.cycles)) =
      some (0x0E, true, [(0x0010, 0x03), (0x0010, 0x01)], 5) := by decide

/-- V119 (R316): `RRA $10 (0x67)`. -/
theorem test_v119_rra :
    after [0x67, 0x10] [(0x0010, 0x03)]
        { idle with a := 0x10 } (fun t => (t.a, writes t, t.cycles)) =
      some (0x12, [(0x0010, 0x03), (0x0010, 0x01)], 5) := by decide

/-- V120 (R316): `RRA $10 (0x67), signed overflow`. -/
theorem test_v120_rra :
    after [0x67, 0x10] [(0x0010, 0x02)]
        { idle with a := 0x7F } (fun t => (t.a, t.p.n, t.p.v, writes t)) =
      some (0x80, true, true, [(0x0010, 0x02), (0x0010, 0x01)]) := by decide

/-- V121 (R317): `DCP $10 (0xC7)`. -/
theorem test_v121_dcp :
    after [0xC7, 0x10] [(0x0010, 0x06)]
        { idle with a := 0x05 } (fun t => (t.p.z, t.p.c, writes t, t.cycles)) =
      some (true, true, [(0x0010, 0x06), (0x0010, 0x05)], 5) := by decide

/-- V123 (R317): `DCP $12F0,Y (0xDB)`. -/
theorem test_v123_dcp :
    after [0xDB, 0xF0, 0x12] [(0x1300, 0x01)]
        { idle with a := 0x00, y := 0x10 } (fun t => (t.p.z, t.p.c, writes t, t.cycles)) =
      some (true, true, [(0x1300, 0x01), (0x1300, 0x00)], 7) := by decide

/-- V115 (R318): `0xA7 LAX $10 with 0xA7 in undocPopulated`. -/
theorem test_v115_xa :
    after [0xA7, 0x10] [(0x0010, 0x80)]
        { idle with a := 0x12 } (fun t => (t.a, t.x, t.p.n, t.cycles)) =
      some (0x80, 0x80, true, 3) := by decide

/-- V125 (R318): `LAX ($40),Y (0xB3)`. -/
theorem test_v125_lax :
    after [0xB3, 0x40] [(0x0040, 0x10), (0x0041, 0x20), (0x2011, 0x7F)]
        { idle with y := 0x01 } (fun t => (t.a, t.x, t.cycles)) =
      some (0x7F, 0x7F, 5) := by decide

/-- V126 (R319): `SAX $10 (0x87)`. -/
theorem test_v126_sax :
    after [0x87, 0x10] []
        { idle with a := 0xF0, x := 0x3C } (fun t => (writes t, t.cycles)) =
      some ([(0x0010, 0x30)], 3) := by decide

/-- V127 (R319): `SAX $FF,Y (0x97)`. -/
theorem test_v127_sax :
    after [0x97, 0xFF] []
        { idle with a := 0xFF, x := 0x81, y := 0x02 } (fun t => (writes t, t.cycles)) =
      some ([(0x0001, 0x81)], 4) := by decide

/-- V128 (R320): `NOP (0x1A)`. -/
theorem test_v128_nop :
    after [0x1A] []
        idle (fun t => (t.pc, t.cycles)) =
      some (0x0201, 2) := by decide

/-- V131 (R320): `NOP $12F0,X (0x1C)`. -/
theorem test_v131_nop :
    after [0x1C, 0xF0, 0x12] []
        { idle with x := 0x10 } (fun t => t.cycles) =
      some 5 := by decide

/-- V132 (R321): `SBC #$30 (0xEB)`. -/
theorem test_v132_sbc :
    after [0xEB, 0x30] []
        { idle with a := 0x50, p := { clear with c := true } } (fun t => (t.a, t.cycles)) =
      some (0x20, 2) := by decide

/-- V133 (R322): `ANC #$80 (0x0B)`. -/
theorem test_v133_anc :
    after [0x0B, 0x80] []
        { idle with a := 0xFF } (fun t => (t.a, t.p.n, t.p.c, t.cycles)) =
      some (0x80, true, true, 2) := by decide

/-- V134 (R322): `ANC #$7F (0x2B)`. -/
theorem test_v134_anc :
    after [0x2B, 0x7F] []
        { idle with a := 0xFF, p := { clear with c := true } } (fun t => (t.a, t.p.c, t.cycles)) =
      some (0x7F, false, 2) := by decide

/-- V135 (R323): `ALR #$03 (0x4B)`. -/
theorem test_v135_alr :
    after [0x4B, 0x03] []
        { idle with a := 0xFF } (fun t => (t.a, t.p.c, t.cycles)) =
      some (0x01, true, 2) := by decide

/-- V136 (R324): `ARR #$FF (0x6B)`. -/
theorem test_v136_arr :
    after [0x6B, 0xFF] []
        { idle with a := 0xFF, p := { clear with c := true } } (fun t => (t.p.n, t.cycles)) =
      some (true, 2) := by decide

/-- V137 (R324): `ARR #$40 (0x6B)`. -/
theorem test_v137_arr :
    after [0x6B, 0x40] []
        { idle with a := 0xC0 } (fun t => (t.a, t.p.v, t.cycles)) =
      some (0x20, true, 2) := by decide

/-- V138 (R325): `AXS #$05 (0xCB)`. -/
theorem test_v138_axs :
    after [0xCB, 0x05] []
        { idle with a := 0x0F, x := 0xFF } (fun t => (t.x, t.p.c, t.cycles)) =
      some (0x0A, true, 2) := by decide

/-- V139 (R325): `AXS #$10 (0xCB)`. -/
theorem test_v139_axs :
    after [0xCB, 0x10] []
        { idle with a := 0x0F, x := 0xFF } (fun t => (t.p.n, t.cycles)) =
      some (true, 2) := by decide

/-- V140 (R326): `LAS $12F0,Y (0xBB)`. -/
theorem test_v140_las :
    after [0xBB, 0xF0, 0x12] [(0x1300, 0x3C)]
        { idle with sp := 0xF0, y := 0x10 } (fun t => (t.a, t.x, t.sp, t.cycles)) =
      some (0x30, 0x30, 0x30, 5) := by decide

/-- V141 (R327): `XAA #$00 (0x8B)`: the free byte takes one draw; A depends on it, so it is not checked here. -/
theorem test_v141_xaa :
    after [0x8B, 0x00] []
        { idle with a := 0x55, x := 0xFF } (fun t => (t.pc, t.draws, t.cycles)) =
      some (0x0202, 1, 2) := by decide

/-- V142 (R328): `LXA #$00 (0xAB)`: the free byte takes one draw; A depends on it, so it is not checked here. -/
theorem test_v142_lxa :
    after [0xAB, 0x00] []
        { idle with a := 0x55, x := 0x12 } (fun t => (t.pc, t.draws, t.cycles)) =
      some (0x0202, 1, 2) := by decide

/-- V143 (R329): `AHX ($40),Y (0x93), no crossing`. -/
theorem test_v143_ahx :
    after [0x93, 0x40] [(0x0040, 0xF0), (0x0041, 0x12)]
        { idle with a := 0xFF, x := 0xFF, y := 0x01 } (fun t => (writes t, t.cycles)) =
      some ([(0x12F1, 0x13)], 6) := by decide

/-- V144 (R329): `AHX $12F0,Y (0x9F), no crossing`. -/
theorem test_v144_ahx :
    after [0x9F, 0xF0, 0x12] []
        { idle with a := 0xFF, x := 0x0F, y := 0x01 } (fun t => (writes t, t.cycles)) =
      some ([(0x12F1, 0x03)], 5) := by decide

/-- V145 (R330): `SHY $0200,X (0x9C) at 0x0300`. -/
theorem test_v145_shy :
    after [0x9C, 0x00, 0x02] []
        { idle with y := 0xFF, pc := 0x0300 } (fun t => (writes t, t.cycles)) =
      some ([(0x0200, 0x03)], 5) := by decide

/-- V146 (R331): `SHX $0200,Y (0x9E) at 0x0300`. -/
theorem test_v146_shx :
    after [0x9E, 0x00, 0x02] []
        { idle with x := 0x01, pc := 0x0300 } (fun t => (writes t, t.cycles)) =
      some ([(0x0200, 0x01)], 5) := by decide

/-- V147 (R332): `TAS $0200,Y (0x9B) at 0x0300`. -/
theorem test_v147_tas :
    after [0x9B, 0x00, 0x02] []
        { idle with a := 0xF0, x := 0x3F, pc := 0x0300 } (fun t => (t.sp, writes t, t.cycles)) =
      some (0x30, [(0x0200, 0x00)], 5) := by decide

/-! ### Words written from the encodings of the spec -/

/-- R150 to R161: loads, stores, transfers. -/
theorem test_decode_load_store_transfer :
    decodeTableWord 16 0x20A1 = some (.lda (.izx 0x20)) ∧ decodeTableWord 24 0x12F0BE = some (.ldx (.absY 0x12F0)) ∧
    decodeTableWord 16 0xF0B4 = some (.ldy (.zpX 0xF0)) ∧ decodeTableWord 24 0x12F09D = some (.sta (.absX 0x12F0)) ∧
    decodeTableWord 16 0x2086 = some (.stx (.zp 0x20)) ∧ decodeTableWord 24 0x03008C = some (.sty (.abs 0x0300)) ∧
    decodeTableWord 8 0xAA = some .tax ∧ decodeTableWord 8 0xA8 = some .tay ∧ decodeTableWord 8 0x8A = some .txa ∧
    decodeTableWord 8 0x98 = some .tya ∧ decodeTableWord 8 0xBA = some .tsx ∧ decodeTableWord 8 0x9A = some .txs := by
  decide

/-- R183 to R197: arithmetic and logic. -/
theorem test_decode_arithmetic_logic :
    decodeTableWord 16 0x5069 = some (.adc (.imm 0x50)) ∧ decodeTableWord 24 0x3000FD = some (.sbc (.absX 0x3000)) ∧
    decodeTableWord 16 0x2021 = some (.and (.izx 0x20)) ∧ decodeTableWord 16 0x4011 = some (.ora (.izy 0x40)) ∧
    decodeTableWord 16 0x1055 = some (.eor (.zpX 0x10)) ∧ decodeTableWord 24 0x1234D9 = some (.cmp (.absY 0x1234)) ∧
    decodeTableWord 16 0x05E0 = some (.cpx (.imm 0x05)) ∧ decodeTableWord 24 0x0300CC = some (.cpy (.abs 0x0300)) ∧
    decodeTableWord 24 0x03002C = some (.bit (.abs 0x0300)) ∧ decodeTableWord 24 0x12FFFE = some (.inc (.absX 0x12FF)) ∧
    decodeTableWord 16 0x20C6 = some (.dec (.zp 0x20)) ∧ decodeTableWord 8 0xE8 = some .inx ∧
    decodeTableWord 8 0xC8 = some .iny ∧ decodeTableWord 8 0xCA = some .dex ∧ decodeTableWord 8 0x88 = some .dey := by
  decide

/-- R231 to R261: shifts and control flow. -/
theorem test_decode_shift_control :
    decodeTableWord 8 0x0A = some (.asl .acc) ∧ decodeTableWord 24 0x03004E = some (.lsr (.abs 0x0300)) ∧
    decodeTableWord 16 0x2036 = some (.rol (.zpX 0x20)) ∧ decodeTableWord 24 0x12F07E = some (.ror (.absX 0x12F0)) ∧
    decodeTableWord 16 0x0290 = some (.bcc 0x02) ∧ decodeTableWord 16 0x10B0 = some (.bcs 0x10) ∧
    decodeTableWord 16 0x7FF0 = some (.beq 0x7F) ∧ decodeTableWord 16 0x8030 = some (.bmi 0x80) ∧
    decodeTableWord 16 0xFED0 = some (.bne 0xFE) ∧ decodeTableWord 16 0x0010 = some (.bpl 0x00) ∧
    decodeTableWord 16 0x0550 = some (.bvc 0x05) ∧ decodeTableWord 16 0x0570 = some (.bvs 0x05) ∧
    decodeTableWord 24 0x12344C = some (.jmp (.abs 0x1234)) ∧ decodeTableWord 24 0x30FF6C = some (.jmp (.ind 0x30FF)) ∧
    decodeTableWord 24 0x800020 = some (.jsr 0x8000) ∧ decodeTableWord 8 0x60 = some .rts := by
  decide

/-- R280 to R293: stack, flags, system. -/
theorem test_decode_stack_flags_system :
    decodeTableWord 8 0x48 = some .pha ∧ decodeTableWord 8 0x08 = some .php ∧ decodeTableWord 8 0x68 = some .pla ∧
    decodeTableWord 8 0x28 = some .plp ∧ decodeTableWord 8 0x18 = some .clc ∧ decodeTableWord 8 0xD8 = some .cld ∧
    decodeTableWord 8 0x58 = some .cli ∧ decodeTableWord 8 0xB8 = some .clv ∧ decodeTableWord 8 0x38 = some .sec ∧
    decodeTableWord 8 0xF8 = some .sed ∧ decodeTableWord 8 0x78 = some .sei ∧ decodeTableWord 8 0xEA = some .nop ∧
    decodeTableWord 8 0x00 = some (.brk 0x00) ∧ decodeTableWord 16 0xAA00 = some (.brk 0xAA) ∧
    decodeTableWord 8 0x40 = some .rti := by
  decide

/-- R311 to R332: undocumented opcodes. -/
theorem test_decode_undocumented :
    decodeTableWord 8 0x02 = some (.kil 0x02) ∧ decodeTableWord 16 0x2003 = some (.slo (.izx 0x20)) ∧
    decodeTableWord 16 0x40F3 = some (.isc (.izy 0x40)) ∧ decodeTableWord 24 0x12343F = some (.rla (.absX 0x1234)) ∧
    decodeTableWord 24 0x12345B = some (.sre (.absY 0x1234)) ∧ decodeTableWord 16 0x1067 = some (.rra (.zp 0x10)) ∧
    decodeTableWord 16 0x10D7 = some (.dcp (.zpX 0x10)) ∧ decodeTableWord 16 0x10B7 = some (.lax (.zpY 0x10)) ∧
    decodeTableWord 16 0x2083 = some (.sax (.izx 0x20)) ∧ decodeTableWord 16 0x12E2 = some (.nopUndoc 0xE2 (.imm 0x12)) ∧
    decodeTableWord 16 0x30EB = some (.usbc 0x30) ∧ decodeTableWord 16 0x7F2B = some (.anc 0x2B 0x7F) ∧
    decodeTableWord 16 0x034B = some (.alr 0x03) ∧ decodeTableWord 16 0x406B = some (.arr 0x40) ∧
    decodeTableWord 16 0x05CB = some (.axs 0x05) ∧ decodeTableWord 24 0x12F0BB = some (.las 0x12F0) ∧
    decodeTableWord 16 0x008B = some (.xaa 0x00) ∧ decodeTableWord 16 0x00AB = some (.lxa 0x00) ∧
    decodeTableWord 16 0x4093 = some (.ahx (.izy 0x40)) ∧ decodeTableWord 24 0x02009C = some (.shy 0x0200) ∧
    decodeTableWord 24 0x02009E = some (.shx 0x0200) ∧ decodeTableWord 24 0x02009B = some (.tas 0x0200) := by
  decide

/-- R80, R81: the encoder writes the bytes the spec writes. -/
theorem test_encode :
    encode (.lda (.absX 0x30FF)) = [0xBD, 0xFF, 0x30] ∧ encode (.brk 0xAA) = [0x00, 0xAA] ∧
    encode (.sax (.zpY 0xFF)) = [0x97, 0xFF] ∧ encode (.kil 0xF2) = [0xF2] := by
  decide

/-- R87: missing operand bytes are named. -/
theorem test_decode_truncated :
    decode [0xBD, 0x34] = .error (.truncated 0xBD) ∧ decode [] = .error .noBytes := by
  decide

/-! ### Ill-formed terms, one for each check -/

/-- A mode the rule does not list: loads and stores (R150 to R155). -/
theorem test_wf_load_store :
    (Instr.lda (.zpY 0)).wellFormed = false ∧ (Instr.ldx (.zpX 0)).wellFormed = false ∧
    (Instr.ldy (.absY 0)).wellFormed = false ∧ (Instr.sta (.imm 0)).wellFormed = false ∧
    (Instr.stx (.zpX 0)).wellFormed = false ∧ (Instr.sty (.absX 0)).wellFormed = false := by
  decide

/-- A mode the rule does not list: arithmetic and logic (R183 to R193). -/
theorem test_wf_arithmetic_logic :
    (Instr.adc .acc).wellFormed = false ∧ (Instr.sbc (.zpY 0)).wellFormed = false ∧
    (Instr.and .imp).wellFormed = false ∧ (Instr.ora (.ind 0)).wellFormed = false ∧
    (Instr.eor (.rel 0)).wellFormed = false ∧ (Instr.cmp (.zpY 0)).wellFormed = false ∧
    (Instr.cpx (.zpX 0)).wellFormed = false ∧ (Instr.cpy (.absX 0)).wellFormed = false ∧
    (Instr.bit (.imm 0)).wellFormed = false ∧ (Instr.inc .acc).wellFormed = false ∧
    (Instr.dec (.absY 0)).wellFormed = false := by
  decide

/-- A mode the rule does not list: shifts and JMP (R231 to R234, R259). -/
theorem test_wf_shift_jump :
    (Instr.asl (.imm 0)).wellFormed = false ∧ (Instr.lsr (.zpY 0)).wellFormed = false ∧
    (Instr.rol (.absY 0)).wellFormed = false ∧ (Instr.ror (.izx 0)).wellFormed = false ∧
    (Instr.jmp (.absX 0)).wellFormed = false := by
  decide

/-- A mode or an opcode byte the rule does not list: undocumented opcodes (R311 to R329). -/
theorem test_wf_undocumented :
    (Instr.kil 0x82).wellFormed = false ∧ (Instr.slo (.imm 0)).wellFormed = false ∧
    (Instr.isc .acc).wellFormed = false ∧ (Instr.rla (.zpY 0)).wellFormed = false ∧
    (Instr.sre (.ind 0)).wellFormed = false ∧ (Instr.rra .acc).wellFormed = false ∧
    (Instr.dcp (.imm 0)).wellFormed = false ∧ (Instr.lax (.zpX 0)).wellFormed = false ∧
    (Instr.sax (.izy 0)).wellFormed = false ∧ (Instr.nopUndoc 0xEA .imp).wellFormed = false ∧
    (Instr.nopUndoc 0x04 (.zpX 0)).wellFormed = false ∧ (Instr.nopUndoc 0x0C (.absY 0)).wellFormed = false ∧
    (Instr.anc 0x4B 0).wellFormed = false ∧ (Instr.ahx (.absX 0)).wellFormed = false := by
  decide

/-- The three checks of a configuration (R310, R136, R144), and a configuration that passes them. -/
theorem test_wf_config :
    ({ plainCfg with undocPopulated := [0xA9] } : Config).wellFormed = false ∧
    ({ populatedCfg with illegalLabelled := [0x8B] } : Config).wellFormed = false ∧
    ({ plainCfg with baseCycles := [(0xEA, 1)] } : Config).wellFormed = false ∧
    ({ plainCfg with baseCycles := [(0xEA, 2)] } : Config).wellFormed = true := by
  decide

/-- A term that is no row does not run. -/
theorem test_ill_formed_is_refused : exec (.sta (.imm 0)) idle = .refused .noSuchForm := rfl

/-! ### Bus order, failures, host calls -/

/-- V79 (E5): JMP ($30FF) reads its high byte at 0x3000. -/
theorem test_v79_bus_order :
    after [0x6C, 0xFF, 0x30] [] idle trace =
      some [(false, 0x0200), (false, 0x0201), (false, 0x0202), (false, 0x30FF), (false, 0x3000)] := by decide

/-- V57 (E9): ASL reads once and writes twice. -/
theorem test_v57_bus_order :
    after [0x06, 0x20] [(0x0020, 0x41)] idle trace =
      some [(false, 0x0200), (false, 0x0201), (false, 0x0020), (true, 0x0020), (true, 0x0020)] := by decide

/-- V7: the pointer at 0xFF with `zpPointerWrap` false. -/
theorem test_v7_pointer_at_ff :
    after [0xA1, 0xFF] [(0x00FF, 0x34), (0x0000, 0x12), (0x0100, 0x56), (0x1234, 0x77), (0x5634, 0x88)]
      { idle with cfg := { populatedCfg with zpPointerWrap := false } } (fun t => t.a) = some 0x88 := by decide

/-- V12 with `penaltyOnWrites` true: one cycle more (R115). -/
theorem test_v12_penalty_on_writes :
    after [0x9D, 0xF0, 0x12] [] { idle with x := 0x10, cfg := { populatedCfg with penaltyOnWrites := true } }
      (fun t => t.cycles) = some 6 := by decide

/-- V114 (R135): an unpopulated opcode; PC one past it, nothing charged. -/
theorem test_v114_unpopulated :
    after [0xA7, 0x10] [] { idle with a := 0x12, cfg := plainCfg } (fun t => (t.fault, t.pc, t.a, t.cycles)) =
      some (some (.unemulatedInstruction 0xA7), 0x0201, 0x12, 0) := by decide

/-- R136: the other label, with the same state. -/
theorem test_v116_labelled_illegal :
    after [0x8B, 0x00] [] { idle with cfg := plainCfg } (fun t => (t.fault, t.pc)) =
      some (some (.illegalInstruction 0x8B), 0x0201) := by decide

/-- R72 (E9): with the target in DEV the writes are events and no cell changes. -/
theorem test_device_write_changes_no_cell :
    after [0x85, 0x20] [(0x0020, 0x41)] { idle with a := 0x99, dev := [0x20] }
      (fun t => (writes t, t.peek 0x0020)) = some ([(0x0020, 0x99)], 0x41) := by decide

/-- R52: an access beyond a smaller image stops the machine. -/
theorem test_out_of_range_stops :
    step (put [0xAD, 0x00, 0x80] [] { idle with memSize := 0x8000 }) = .fault (.busOutOfRange 0x8000) := rfl

/-- R373: index 5 and the indexes outside 0 to 7 name no flag. -/
theorem test_flag_indexes :
    getFlag 7 { idle with p := { clear with n := true } } = .ok true ∧
    getFlag 5 idle = .error (.invalidFlagIndex 5) ∧ getFlag 8 idle = .error (.invalidFlagIndex 8) ∧
    getFlag (-1) idle = .error (.invalidFlagIndex (-1)) := by
  decide

/-- R40, R410: PC after `reset()` is the little-endian word at 0xFFFC. -/
theorem test_reset_vector :
    (nextOf (resetCall (cells [(0xFFFC, 0x34), (0xFFFD, 0x12)] idle))).map (fun t => (t.pc, t.sp, t.statusByte)) =
      some (0x1234, 0xFD, 0x06) := by decide

/-- R376, R379: `irq()` with I = 1 has no effect; with I = 0 the pushed status byte has bit 4 as B holds it. -/
theorem test_irq :
    irqCall { idle with p := { clear with i := true } } = .next { idle with p := { clear with i := true } } ∧
    (nextOf (irqCall (cells [(0xFFFE, 0x00), (0xFFFF, 0x90)] idle))).map (fun t => (t.pc, writes t, t.cycles)) =
      some (0x9000, [(0x01FD, 0x02), (0x01FC, 0x00), (0x01FB, 0x00)], 7) :=
  ⟨rfl, by decide⟩

/-- R377: `nmi()` is taken with I = 1. -/
theorem test_nmi :
    (nextOf (nmiCall (cells [(0xFFFA, 0x00), (0xFFFB, 0x80)] { idle with p := { clear with i := true } }))).map
      (fun t => (t.pc, t.p.i, t.peek 0x01FB)) = some (0x8000, true, 0x04) := by decide

/-- S1 (R138): `execute(3)` over NOPs runs two of them and returns 4; `execute(0)` runs none. -/
theorem test_s1_execute :
    (match executeCall 3 (put [0xEA, 0xEA, 0xEA] [] idle) with
      | .next r => some (r.1.pc, r.2)
      | _ => none) = some (0x0202, some 4) ∧
    (match executeCall 0 idle with
      | .next r => some (r.1.pc, r.2)
      | _ => none) = some (0x0200, some 0) := by decide

/-- R61: the safe read answers the cell. -/
theorem test_safe_read : safeRead 0x1234 (cells [(0x1234, 0xEF)] idle) = 0xEF := by decide

/-- M1 (R59): the low byte is stored at the lower address. -/
theorem test_m1_write_word :
    ((idle.writeWord 0x1234 0xBEEF).peek 0x1234, (idle.writeWord 0x1234 0xBEEF).peek 0x1235) = (0xEF, 0xBE) := by
  decide

/-- Reset memory is canonical, and a write of what an unlisted address holds removes the cell. -/
theorem test_memory_form :
    State.reset.mem.wf = true ∧ (Memory.write [(5, 7)] 5 0).wf = true ∧ Memory.write [(5, 7)] 5 0 = [] := by decide

/-! ### Every obligation with hypotheses: a state and operands that meet them -/

/-- `idle` is ready. -/
theorem idle_ready : idle.Ready := ⟨rfl, Nat.le_refl _⟩

/-- `idle` meets the invariant. -/
theorem idle_inv : idle.Inv := ⟨rfl, rfl, trivial, fun h => nomatch h⟩

theorem witness_DecodeOfEncode :
    (Instr.lda (.absX 0xFFFF)).wellFormed = true ∧ (Instr.nopUndoc 0xFC (.absX 0)).wellFormed = true ∧
    (Instr.brk 0xFF).wellFormed = true := by decide

theorem witness_EncodeOfDecode : decode [0xBD, 0xFF, 0x30, 0x01] = .ok (.lda (.absX 0x30FF), [0x01]) := by decide

theorem witness_EveryOpcodeHasARow :
    lengthOf 0x00 ≤ 1 + [(0xAA : Byte)].length ∧ 1 + ([] : List Byte).length < lengthOf 0x00 ∧
    1 + [(0x34 : Byte)].length < lengthOf 0xBD := by decide

theorem witness_OpcodeClasses :
    plainCfg.classOf 0x02 = .halt ∧ plainCfg.classOf 0xA9 = .populated ∧ plainCfg.classOf 0xA7 = .unpopulated ∧
    populatedCfg.classOf 0xA7 = .populated := by decide

theorem witness_StepRunsTheDecodedInstruction :
    let s := put [0xBD, 0xFF, 0x30] [] { idle with pc := 0xFFFE }
    s.halted = false ∧ s.Ready ∧ s.Plain [s.pc, s.pc + 1, s.pc + 2] ∧
    s.cfg.classOf (s.peek s.pc) ≠ .unpopulated ∧
    decode [s.peek s.pc, s.peek (s.pc + 1), s.peek (s.pc + 2)] = .ok (.lda (.absX 0x30FF), []) :=
  ⟨rfl, ⟨rfl, Nat.le_refl _⟩, fun _ _ => rfl, by decide, by decide⟩

theorem witness_StepRecordsAnUnpopulatedOpcode :
    let s := put [0xA7] [] { idle with cfg := plainCfg }
    s.halted = false ∧ s.Ready ∧ s.cfg.classOf (s.busRead s.pc).1 = .unpopulated :=
  ⟨rfl, ⟨rfl, Nat.le_refl _⟩, by decide⟩

theorem witness_NoStepWhenHaltedOrFaulted :
    ({ idle with halted := true } : State).halted = true ∧
    ({ idle with fault := some (.unemulatedInstruction 0xA7) } : State).halted = false ∧
    ({ idle with fault := some (.unemulatedInstruction 0xA7) } : State).fault =
      some (.unemulatedInstruction 0xA7) := by decide

theorem witness_FormsOutsideThePopulatedRows :
    (Instr.sta (.imm 0)).wellFormed = false ∧
    (Instr.lax (.zp 0xFF)).opcodeOf = some 0xA7 ∧ plainCfg.populates 0xA7 = false ∧
    (Instr.xaa 0).opcodeOf = some 0x8B ∧ plainCfg.populates 0x8B = false ∧ 0x8B ∈ plainCfg.illegalLabelled := by decide

/-- `idle` with an image of 0x8000 bytes. -/
def half : State := { idle with memSize := 0x8000 }

/-- The image's last byte reaches, the address after it does not, but for a custom handler there; an instruction
whose second byte is beyond, a stack page that is, and the vectors. -/
theorem witness_AccessOutOfRangeStops :
    half.fault = none ∧ half.halted = false ∧ half.p.i = false ∧
    (Instr.lda (.abs 0x8000)).opcodeOf = some 0xAD ∧ half.cfg.populates 0xAD = true ∧
    (half.accesses (.lda (.abs 0x8000))).find? half.beyond = some 0x8000 ∧
    (half.accesses (.lda (.abs 0x7FFF))).find? half.beyond = none ∧
    ({ half with dev := [0x8000] } : State).beyond 0x8000 = false ∧
    (let s : State := { half with pc := 0x8000 };
      [s.pc].find? s.beyond = some 0x8000) ∧
    (let s : State := cells [(0x7FFF, 0xAD)] { half with pc := 0x7FFF };
      let op := (s.busRead s.pc).1;
      s.beyond s.pc = false ∧ s.cfg.classOf op ≠ .unpopulated ∧
        ([s.pc + 1, s.pc + 2].take (lengthOf op - 1)).find? s.beyond = some 0x8000) ∧
    [0xFFFC, 0xFFFD].find? half.beyond = some 0xFFFC ∧
    (let pushed := [stackAddr half.sp, stackAddr (half.sp - 1), stackAddr (half.sp - 2)];
      (pushed ++ [0xFFFA, 0xFFFB]).find? half.beyond = some 0xFFFA ∧
      (pushed ++ [0xFFFE, 0xFFFF]).find? half.beyond = some 0xFFFE) ∧
    (let s : State := { half with memSize := 0x0200, pc := 0x0000, sp := 0xFF, dev := [0x0200] };
      (s.accesses .pha).find? s.beyond = none ∧ (s.accesses (.sta (.abs 0x0201))).find? s.beyond = some 0x0201) := by
  decide

/-- The vector at plain addresses, and at a device. -/
theorem witness_ResetSequence :
    idle.Full ∧ idle.inDev 0xFFFC = false ∧ idle.inDev 0xFFFD = false ∧
    ({ idle with dev := [0xFFFC] } : State).inDev 0xFFFC = true :=
  ⟨Nat.le_refl _, rfl, rfl, rfl⟩

theorem witness_StepKeepsTheInvariant : idle.Inv ∧ ∃ t, step idle = .next t := ⟨idle_inv, _, rfl⟩

theorem witness_StepKeepsHandlersAndParameters : ∃ t, step { idle with dev := [0xFFFF] } = .next t := ⟨_, rfl⟩

theorem witness_HostCallsKeepTheInvariant :
    idle.Inv ∧ (∃ t, resetCall idle = .next t) ∧ (∃ t, irqCall idle = .next t) ∧ (∃ t, nmiCall idle = .next t) ∧
    ∃ t, executeCall 1 idle = .next (t, some 7) :=
  ⟨idle_inv, ⟨_, rfl⟩, ⟨_, rfl⟩, ⟨_, rfl⟩, ⟨_, rfl⟩⟩

theorem witness_StepDoesNotReadCycles :
    idle.SameButTiming { idle with cycles := 1000, cfg := { populatedCfg with penaltyOnWrites := true, kilCycles := 0 } } :=
  rfl

/-- An instruction that charges the least, at the bounds of the base cycle table. -/
theorem witness_EveryInstructionChargesTwoCycles :
    ({ plainCfg with baseCycles := [(0xEA, 2)] } : Config).wellFormed = true ∧
    ∃ t, step (put [0xEA] [] { idle with cfg := { plainCfg with baseCycles := [(0xEA, 2)] } }) = .next t ∧
      idle.halted = false ∧ t.halted = false ∧ t.fault = none :=
  ⟨rfl, _, rfl, rfl, rfl, rfl⟩

theorem witness_OnlyKilHalts :
    (put [0xF2] [] idle).halted = false ∧ ∃ t, step (put [0xF2] [] idle) = .next t ∧ t.halted = true :=
  ⟨rfl, _, rfl, rfl⟩

/-- One instruction for each clause: B by PLP, D by SED, I by BRK, V by CLV, C by ASL. -/
theorem witness_FlagsAreWrittenOnlyByTheirInstructions :
    (∃ t, exec .plp (cells [(0x01FE, 0xFF)] idle) = .next t ∧ t.p.b ≠ idle.p.b) ∧
    (∃ t, exec .sed idle = .next t ∧ t.p.d ≠ idle.p.d) ∧ (∃ t, exec (.brk 0) idle = .next t ∧ t.p.i ≠ idle.p.i) ∧
    (∃ t, exec .clv { idle with p := { clear with v := true } } = .next t ∧ t.p.v ≠ true) ∧
    ∃ t, exec (.asl .acc) { idle with a := 0x80 } = .next t ∧ t.p.c ≠ idle.p.c :=
  ⟨⟨_, rfl, by decide⟩, ⟨_, rfl, by decide⟩, ⟨_, rfl, by decide⟩, ⟨_, rfl, by decide⟩, ⟨_, rfl, by decide⟩⟩

theorem witness_StackPointerIsWrittenOnlyByItsInstructions :
    (∃ t, exec .pha idle = .next t ∧ t.sp ≠ idle.sp) ∧ (∃ t, exec (.jsr 0) idle = .next t ∧ t.sp ≠ idle.sp) ∧
    ∃ t, exec (.brk 0) idle = .next t ∧ t.sp ≠ idle.sp :=
  ⟨⟨_, rfl, by decide⟩, ⟨_, rfl, by decide⟩, ⟨_, rfl, by decide⟩⟩

/-- The pushes with SP = 0x01 wrap in page 1; each clause at a plain address and at a device. -/
theorem witness_InterruptEntrySequence :
    let s : State := { idle with sp := 0x01 }
    s.Full ∧ s.mem.wf = true ∧ s.inDev (stackAddr s.sp) = false ∧ s.inDev (stackAddr (s.sp - 1)) = false ∧
    s.inDev (stackAddr (s.sp - 2)) = false ∧ s.Plain [0xFFFE, 0xFFFE + 1] ∧
    ({ s with dev := [0x100, 0x101, 0x1FF] } : State).inDev (stackAddr s.sp) = true ∧
    ({ s with dev := [0x100, 0x101, 0x1FF] } : State).inDev (stackAddr (s.sp - 1)) = true ∧
    ({ s with dev := [0x100, 0x101, 0x1FF] } : State).inDev (stackAddr (s.sp - 2)) = true :=
  ⟨Nat.le_refl _, rfl, rfl, rfl, rfl, fun _ _ => rfl, rfl, rfl, rfl⟩

theorem witness_InterruptCalls :
    ({ idle with halted := true } : State).halted = true ∧
    ({ idle with fault := some (.unemulatedInstruction 0) } : State).fault ≠ none ∧
    ({ idle with p := { clear with i := true } } : State).p.i = true ∧
    idle.halted = false ∧ idle.Ready ∧ idle.p.i = false :=
  ⟨rfl, by decide, rfl, rfl, idle_ready, rfl⟩

theorem witness_BrkEntersTheHandler : (Instr.brk 0xFF).opcodeOf = some 0x00 ∧ idle.Ready := ⟨rfl, idle_ready⟩

theorem witness_RtiReturns :
    Instr.rti.opcodeOf = some 0x40 ∧ idle.Ready ∧ idle.inDev (stackAddr (idle.sp + 1)) = false ∧
    idle.inDev (stackAddr (idle.sp + 2)) = false ∧ idle.inDev (stackAddr (idle.sp + 3)) = false :=
  ⟨rfl, idle_ready, rfl, rfl, rfl⟩

theorem witness_BrkThenRtiRestores :
    idle.Ready ∧ idle.mem.wf = true ∧
    idle.Plain [stackAddr idle.sp, stackAddr (idle.sp - 1), stackAddr (idle.sp - 2)] ∧
    ∃ t, exec (.brk 0) idle = .next t ∧ ∃ u, exec .rti { t with pc := 0x9000 } = .next u :=
  ⟨idle_ready, rfl, fun _ _ => rfl, _, rfl, _, rfl⟩

theorem witness_PointerModesResolve : idle.Full := Nat.le_refl _

theorem witness_LoadsComplete :
    idle.Ready ∧ (Instr.lda (.izy 0xFF)).opcodeOf = some 0xB1 ∧ (Instr.ldx (.zpY 0xFF)).opcodeOf = some 0xB6 ∧
    (Instr.ldy (.absX 0xFFFF)).opcodeOf = some 0xBC :=
  ⟨idle_ready, rfl, rfl, rfl⟩

theorem witness_OperandIsOneRead :
    idle.Full ∧ (Mode.absX 0xFFFF).format ∈ [Format.ZP, .ZPX, .ZPY, .ABS, .ABSX, .ABSY, .IZX, .IZY] ∧
    idle.inDev (idle.resolve (.absX 0xFFFF)).1.ea = false ∧
    ({ idle with dev := [0xFFFF] } : State).inDev (idle.resolve (.absX 0xFFFF)).1.ea = true :=
  ⟨Nat.le_refl _, by decide, rfl, rfl⟩

theorem witness_StoresComplete :
    idle.Ready ∧ idle.mem.wf = true ∧ (Instr.sta (.izx 0xFF)).opcodeOf = some 0x81 ∧
    (Instr.stx (.zpY 0xFF)).opcodeOf = some 0x96 ∧ (Instr.sty (.abs 0xFFFF)).opcodeOf = some 0x8C :=
  ⟨idle_ready, rfl, rfl, rfl, rfl⟩

theorem witness_TransfersComplete :
    idle.Ready ∧ Instr.tax.opcodeOf = some 0xAA ∧ Instr.tay.opcodeOf = some 0xA8 ∧ Instr.txa.opcodeOf = some 0x8A ∧
    Instr.tya.opcodeOf = some 0x98 ∧ Instr.tsx.opcodeOf = some 0xBA ∧ Instr.txs.opcodeOf = some 0x9A :=
  ⟨idle_ready, rfl, rfl, rfl, rfl, rfl, rfl⟩

theorem witness_AdcCompletes : (Instr.adc (.absY 0xFFFF)).opcodeOf = some 0x79 ∧ idle.Ready := ⟨rfl, idle_ready⟩

theorem witness_SbcCompletes : (Instr.sbc (.zpX 0xFF)).opcodeOf = some 0xF5 ∧ idle.Ready := ⟨rfl, idle_ready⟩

theorem witness_LogicCompletes :
    idle.Ready ∧ (Instr.and (.imm 0xFF)).opcodeOf = some 0x29 ∧ (Instr.ora (.izy 0xFF)).opcodeOf = some 0x11 ∧
    (Instr.eor (.absX 0xFFFF)).opcodeOf = some 0x5D :=
  ⟨idle_ready, rfl, rfl, rfl⟩

theorem witness_ComparesComplete :
    idle.Ready ∧ (Instr.cmp (.izx 0xFF)).opcodeOf = some 0xC1 ∧ (Instr.cpx (.imm 0xFF)).opcodeOf = some 0xE0 ∧
    (Instr.cpy (.abs 0xFFFF)).opcodeOf = some 0xCC :=
  ⟨idle_ready, rfl, rfl, rfl⟩

theorem witness_BitCompletes : (Instr.bit (.zp 0xFF)).opcodeOf = some 0x24 ∧ idle.Ready := ⟨rfl, idle_ready⟩

theorem witness_IncDecCompletes :
    idle.Ready ∧ idle.mem.wf = true ∧ (Instr.inc (.absX 0xFFFF)).opcodeOf = some 0xFE ∧
    (Instr.dec (.zpX 0xFF)).opcodeOf = some 0xD6 :=
  ⟨idle_ready, rfl, rfl, rfl⟩

theorem witness_IndexIncDecCompletes :
    idle.Ready ∧ Instr.inx.opcodeOf = some 0xE8 ∧ Instr.iny.opcodeOf = some 0xC8 ∧ Instr.dex.opcodeOf = some 0xCA ∧
    Instr.dey.opcodeOf = some 0x88 :=
  ⟨idle_ready, rfl, rfl, rfl, rfl⟩

/-- The accumulator forms, then memory forms. -/
theorem witness_ShiftsComplete :
    (idle.Ready ∧ (Instr.asl .acc).opcodeOf = some 0x0A ∧ (Instr.lsr .acc).opcodeOf = some 0x4A ∧
      (Instr.rol .acc).opcodeOf = some 0x2A ∧ (Instr.ror .acc).opcodeOf = some 0x6A) ∧
    Mode.absX 0xFFFF ≠ .acc ∧ idle.Ready ∧ idle.mem.wf = true ∧ (Instr.asl (.absX 0xFFFF)).opcodeOf = some 0x1E ∧
    (Instr.lsr (.absX 0xFFFF)).opcodeOf = some 0x5E ∧ (Instr.rol (.absX 0xFFFF)).opcodeOf = some 0x3E ∧
    (Instr.ror (.absX 0xFFFF)).opcodeOf = some 0x7E :=
  ⟨⟨idle_ready, rfl, rfl, rfl, rfl⟩, by decide, idle_ready, rfl, rfl, rfl, rfl, rfl⟩

theorem witness_BranchesComplete :
    idle.Ready ∧ (Instr.bcc 0x80).opcodeOf = some 0x90 ∧ (Instr.bcs 0x7F).opcodeOf = some 0xB0 ∧
    (Instr.beq 0).opcodeOf = some 0xF0 ∧ (Instr.bmi 0xFF).opcodeOf = some 0x30 ∧ (Instr.bne 0).opcodeOf = some 0xD0 ∧
    (Instr.bpl 0).opcodeOf = some 0x10 ∧ (Instr.bvc 0).opcodeOf = some 0x50 ∧ (Instr.bvs 0).opcodeOf = some 0x70 :=
  ⟨idle_ready, rfl, rfl, rfl, rfl, rfl, rfl, rfl, rfl⟩

theorem witness_JmpCompletes :
    (Instr.jmp (.ind 0xFFFF)).opcodeOf = some 0x6C ∧ (Instr.jmp (.abs 0xFFFF)).opcodeOf = some 0x4C ∧ idle.Ready :=
  ⟨rfl, rfl, idle_ready⟩

/-- JSR with its stack cells plain and at devices; RTS with its cells plain. -/
theorem witness_JsrRtsComplete :
    (Instr.jsr 0xFFFF).opcodeOf = some 0x20 ∧ idle.Ready ∧ idle.mem.wf = true ∧
    idle.inDev (stackAddr idle.sp) = false ∧ idle.inDev (stackAddr (idle.sp - 1)) = false ∧
    ({ idle with dev := [0x1FC, 0x1FD] } : State).inDev (stackAddr idle.sp) = true ∧
    ({ idle with dev := [0x1FC, 0x1FD] } : State).inDev (stackAddr (idle.sp - 1)) = true ∧
    Instr.rts.opcodeOf = some 0x60 ∧ idle.inDev (stackAddr (idle.sp + 1)) = false ∧
    idle.inDev (stackAddr (idle.sp + 2)) = false :=
  ⟨rfl, idle_ready, rfl, rfl, rfl, rfl, rfl, rfl, rfl, rfl⟩

theorem witness_RtsAfterJsrContinuesAfterIt :
    idle.Ready ∧ idle.mem.wf = true ∧ idle.Plain [stackAddr idle.sp, stackAddr (idle.sp - 1)] ∧
    ∃ t, exec (.jsr 0x8000) idle = .next t ∧ ∃ u, exec .rts { t with pc := 0x8000 } = .next u :=
  ⟨idle_ready, rfl, fun _ _ => rfl, _, rfl, _, rfl⟩

theorem witness_StackInstructionsComplete :
    idle.Ready ∧ idle.mem.wf = true ∧ Instr.pha.opcodeOf = some 0x48 ∧ Instr.php.opcodeOf = some 0x08 ∧
    Instr.pla.opcodeOf = some 0x68 ∧ Instr.plp.opcodeOf = some 0x28 :=
  ⟨idle_ready, rfl, rfl, rfl, rfl, rfl⟩

theorem witness_FlagInstructionsComplete :
    idle.Ready ∧ Instr.clc.opcodeOf = some 0x18 ∧ Instr.cld.opcodeOf = some 0xD8 ∧ Instr.cli.opcodeOf = some 0x58 ∧
    Instr.clv.opcodeOf = some 0xB8 ∧ Instr.sec.opcodeOf = some 0x38 ∧ Instr.sed.opcodeOf = some 0xF8 ∧
    Instr.sei.opcodeOf = some 0x78 ∧ Instr.nop.opcodeOf = some 0xEA :=
  ⟨idle_ready, rfl, rfl, rfl, rfl, rfl, rfl, rfl, rfl⟩

theorem witness_KilCompletes :
    (0xF2 : Byte) ∈ [0x02, 0x12, 0x22, 0x32, 0x42, 0x52, 0x62, 0x72, 0x92, 0xB2, 0xD2, 0xF2] ∧ idle.Ready :=
  ⟨by decide, idle_ready⟩

theorem witness_SloIscComplete :
    idle.Ready ∧ idle.mem.wf = true ∧ (Instr.slo (.absY 0xFFFF)).opcodeOf = some 0x1B ∧
    (Instr.isc (.izy 0xFF)).opcodeOf = some 0xF3 :=
  ⟨idle_ready, rfl, rfl, rfl⟩

theorem witness_OptionalRmwComplete :
    idle.Ready ∧ idle.mem.wf = true ∧
    (0x3B ∈ idle.cfg.undocPopulated ∧ (Instr.rla (.absY 0xFFFF)).opcodeOf = some 0x3B) ∧
    (0x5B ∈ idle.cfg.undocPopulated ∧ (Instr.sre (.absY 0xFFFF)).opcodeOf = some 0x5B) ∧
    (0x7B ∈ idle.cfg.undocPopulated ∧ (Instr.rra (.absY 0xFFFF)).opcodeOf = some 0x7B) ∧
    0xDB ∈ idle.cfg.undocPopulated ∧ (Instr.dcp (.absY 0xFFFF)).opcodeOf = some 0xDB :=
  ⟨idle_ready, rfl, by decide⟩

theorem witness_OptionalLoadsStoresNopsComplete :
    idle.Ready ∧ idle.mem.wf = true ∧ (0xB3 ∈ idle.cfg.undocPopulated ∧ (Instr.lax (.izy 0xFF)).opcodeOf = some 0xB3) ∧
    (0x97 ∈ idle.cfg.undocPopulated ∧ (Instr.sax (.zpY 0xFF)).opcodeOf = some 0x97) ∧
    0xFC ∈ idle.cfg.undocPopulated ∧ (Instr.nopUndoc 0xFC (.absX 0xFFFF)).opcodeOf = some 0xFC :=
  ⟨idle_ready, rfl, by decide⟩

theorem witness_OptionalImmediatesComplete :
    idle.Ready ∧ (0xEB ∈ idle.cfg.undocPopulated ∧ (Instr.usbc 0xFF).opcodeOf = some 0xEB) ∧
    (0x2B ∈ idle.cfg.undocPopulated ∧ (Instr.anc 0x2B 0xFF).opcodeOf = some 0x2B) ∧
    (0x4B ∈ idle.cfg.undocPopulated ∧ (Instr.alr 0xFF).opcodeOf = some 0x4B) ∧
    (0x6B ∈ idle.cfg.undocPopulated ∧ (Instr.arr 0xFF).opcodeOf = some 0x6B) ∧
    0xCB ∈ idle.cfg.undocPopulated ∧ (Instr.axs 0xFF).opcodeOf = some 0xCB :=
  ⟨idle_ready, by decide⟩

theorem witness_LasXaaLxaComplete :
    idle.Ready ∧ (0xBB ∈ idle.cfg.undocPopulated ∧ (Instr.las 0xFFFF).opcodeOf = some 0xBB) ∧
    (0x8B ∈ idle.cfg.undocPopulated ∧ (Instr.xaa 0xFF).opcodeOf = some 0x8B) ∧
    0xAB ∈ idle.cfg.undocPopulated ∧ (Instr.lxa 0xFF).opcodeOf = some 0xAB :=
  ⟨idle_ready, by decide⟩

/-- And a crossing and a non-crossing address, the two clauses of the store. -/
theorem witness_UnstableStoresComplete :
    idle.Ready ∧ idle.mem.wf = true ∧
    (0x9F ∈ idle.cfg.undocPopulated ∧ (Instr.ahx (.absY 0xFFFF)).opcodeOf = some 0x9F) ∧
    (0x9C ∈ idle.cfg.undocPopulated ∧ (Instr.shy 0xFFFF).opcodeOf = some 0x9C) ∧
    (0x9E ∈ idle.cfg.undocPopulated ∧ (Instr.shx 0xFFFF).opcodeOf = some 0x9E) ∧
    (0x9B ∈ idle.cfg.undocPopulated ∧ (Instr.tas 0xFFFF).opcodeOf = some 0x9B) ∧
    (idle.resolve (.absY 0xFFFF)).1.crossed = false ∧
    (({ idle with y := 1 } : State).resolve (.absY 0xFFFF)).1.crossed = true :=
  ⟨idle_ready, rfl, by decide⟩

/-- A call that halts, one of no step, and one that a failure ends. -/
theorem witness_ExecuteRunsToItsDeadline :
    idle.halted = false ∧ idle.fault = none ∧ idle.cfg.wellFormed = true ∧ idle.Full ∧
    (∃ t, executeCall 8 (put [0xEA, 0xEA, 0xEA, 0xF2] [] idle) = .next (t, some 8) ∧ t.fault = none) ∧
    executeCall 0 idle = .next (idle, some 0) ∧
    ∃ t, executeCall 1 (put [0xA7] [] { idle with cfg := plainCfg }) = .next (t, none) :=
  ⟨rfl, rfl, by decide, Nat.le_refl _, ⟨_, rfl, rfl⟩, rfl, _, rfl⟩

/-- The ends of the ranges: 0 and 7 name flags; -1, 8 and 5 do not. -/
theorem witness_FlagAccessors :
    (0 ≤ (0 : Int) ∧ (0 : Int) ≤ 7 ∧ (0 : Int) ≠ 5) ∧ (0 ≤ (7 : Int) ∧ (7 : Int) ≤ 7 ∧ (7 : Int) ≠ 5) ∧
    (-1 : Int) < 0 ∧ (7 : Int) < 8 ∧ (5 : Int) = 5 := by decide

/-- The last address of a short image, and of memory. -/
theorem witness_ImagesHandlersAndTheSafeRead :
    (1 : Word).toNat < ([0x12, 0x34] : List Byte).length ∧ (0xFFFF : Word).toNat < idle.memSize := by decide

theorem witness_BusReadsBackWhatItWrote :
    idle.Full ∧ idle.mem.wf = true ∧ idle.inDev 0xFFFF = false ∧ idle.Plain [0xFFFF, 0xFFFF + 1] ∧
    ({ idle with dev := [0xFFFF] } : State).inDev 0xFFFF = true :=
  ⟨Nat.le_refl _, rfl, rfl, fun _ _ => rfl, rfl⟩

end Sys2Proof.Machine.Tests
end

section
/-! The statements about the state as a whole: its values at reset (R40, R416), what each instruction may write of
the flags, of SP and of the counter (R25, R27, R34), what halts the machine (R35, R134), and that D is never read by
arithmetic (R31). -/

namespace Sys2Proof.Machine

/-- Settles O11: the reset state is closed data. -/
theorem resetValues : Obligations.ResetValues := by
  unfold Obligations.ResetValues
  decide

/-! ### The flags of R27 that a computation leaves -/

/-- The flags whose writers the spec lists (R27, R32): all but N and Z. -/
inductive ListedFlag where
  | c | i | d | b | v

/-- The value of a listed flag. -/
def Flags.get (p : Flags) : ListedFlag → Bool
  | .c => p.c
  | .i => p.i
  | .d => p.d
  | .b => p.b
  | .v => p.v

/-- `q` has the listed flags of `p`, but for those in `w`. -/
def Flags.SameBut (w : List ListedFlag) (p q : Flags) : Prop := ∀ f, f ∉ w → q.get f = p.get f

theorem Flags.SameBut.of_eq {w : List ListedFlag} {p q : Flags} (h : q = p) : SameBut w p q := by
  subst h
  exact fun _ _ => rfl

theorem Flags.SameBut.trans {w : List ListedFlag} {p q r : Flags} (h : SameBut w p q) (k : SameBut w q r) :
    SameBut w p r := fun f hf => (k f hf).trans (h f hf)

theorem Flags.SameBut.mono {w w' : List ListedFlag} {p q : Flags} (h : SameBut w p q) (hw : w ⊆ w') :
    SameBut w' p q := fun f hf => h f fun hm => hf (hw hm)

/-- The five clauses of `SameBut`, for a set of written flags that is given. -/
theorem Flags.sameBut_iff {w : List ListedFlag} {p q : Flags} :
    SameBut w p q ↔ (.c ∉ w → q.c = p.c) ∧ (.i ∉ w → q.i = p.i) ∧ (.d ∉ w → q.d = p.d) ∧ (.b ∉ w → q.b = p.b) ∧
      (.v ∉ w → q.v = p.v) := by
  refine ⟨fun h => ⟨h .c, h .i, h .d, h .b, h .v⟩, fun ⟨hc, hi, hd, hb, hv⟩ f => ?_⟩
  cases f
  · exact hc
  · exact hi
  · exact hd
  · exact hb
  · exact hv

section
variable (p : Flags) (a m v : Byte) (x : Bool)

theorem Flags.setNZ_sameBut : SameBut [] p (p.setNZ v) := by simp [sameBut_iff, setNZ]
theorem Flags.afterAdd_sameBut : SameBut [.c, .v] p (p.afterAdd a m) := by simp [sameBut_iff, afterAdd, setNZ]
theorem Flags.afterSub_sameBut : SameBut [.c, .v] p (p.afterSub a m) := by simp [sameBut_iff, afterSub, setNZ]
theorem Flags.afterCompare_sameBut : SameBut [.c] p (p.afterCompare a m) := by
  simp [sameBut_iff, afterCompare, setNZ]
theorem Flags.afterBit_sameBut : SameBut [.v] p (p.afterBit a m) := by simp [sameBut_iff, afterBit]
theorem Flags.setNZC_sameBut : SameBut [.c] p { p.setNZ v with c := x } := by simp [sameBut_iff, setNZ]
theorem Flags.setC_sameBut : SameBut [.c] p { p with c := x } := by simp [sameBut_iff]
theorem Flags.setI_sameBut : SameBut [.i] p { p with i := x } := by simp [sameBut_iff]
theorem Flags.setD_sameBut : SameBut [.d] p { p with d := x } := by simp [sameBut_iff]
theorem Flags.setV_sameBut : SameBut [.v] p { p with v := x } := by simp [sameBut_iff]

/-- PLP and RTI take all flags from the stack (R283, R293). -/
theorem Flags.sameBut_all (q : Flags) : SameBut [.c, .i, .d, .b, .v] p q := by simp [sameBut_iff]

end

/-! ### What an instruction may write -/

/-- The listed flags an instruction writes (R27, and R314 to R332 for the undocumented ones). -/
def flagsWritten : Instr → List ListedFlag
  | .plp => [.c, .i, .d, .b, .v]
  | .rti => [.c, .i, .d, .b, .v]
  | .cld => [.d]
  | .sed => [.d]
  | .cli => [.i]
  | .sei => [.i]
  | .brk _ => [.i]
  | .clv => [.v]
  | .bit _ => [.v]
  | .adc _ => [.c, .v]
  | .sbc _ => [.c, .v]
  | .isc _ => [.c, .v]
  | .rra _ => [.c, .v]
  | .usbc _ => [.c, .v]
  | .arr _ => [.c, .v]
  | .clc => [.c]
  | .sec => [.c]
  | .cmp _ => [.c]
  | .cpx _ => [.c]
  | .cpy _ => [.c]
  | .asl _ => [.c]
  | .lsr _ => [.c]
  | .rol _ => [.c]
  | .ror _ => [.c]
  | .slo _ => [.c]
  | .rla _ => [.c]
  | .sre _ => [.c]
  | .dcp _ => [.c]
  | .alr _ => [.c]
  | .anc _ _ => [.c]
  | .axs _ => [.c]
  | _ => []

/-- Whether an instruction writes SP: the pushes and pops, TXS, BRK (R25), LAS and TAS (R326, R332). -/
def writesSp : Instr → Bool
  | .pha => true
  | .php => true
  | .pla => true
  | .plp => true
  | .rts => true
  | .rti => true
  | .txs => true
  | .jsr _ => true
  | .brk _ => true
  | .las _ => true
  | .tas _ => true
  | _ => false

/-- From `s` to `u` nothing is written but what the instruction may write, and no cycle is charged. -/
structure Within (i : Instr) (s u : State) : Prop where
  cycles : u.cycles = s.cycles
  cfg : u.cfg = s.cfg
  sp : writesSp i = false → u.sp = s.sp
  p : Flags.SameBut (flagsWritten i) s.p u.p

theorem Within.of_eq {i : Instr} {s u : State} (hc : u.cycles = s.cycles) (hg : u.cfg = s.cfg) (hs : u.sp = s.sp)
    (hp : u.p = s.p) : Within i s u := ⟨hc, hg, fun _ => hs, .of_eq hp⟩

theorem Within.refl (i : Instr) (s : State) : Within i s s := .of_eq rfl rfl rfl rfl

theorem Within.trans {i : Instr} {s t u : State} (h : Within i s t) (k : Within i t u) : Within i s u where
  cycles := k.cycles.trans h.cycles
  cfg := k.cfg.trans h.cfg
  sp := fun e => (k.sp e).trans (h.sp e)
  p := h.p.trans k.p

/-- A change of registers and flags with SP and the counter left alone. -/
theorem Within.of_flags {i : Instr} {s u : State} (hp : Flags.SameBut (flagsWritten i) s.p u.p)
    (hc : u.cycles = s.cycles := by rfl) (hg : u.cfg = s.cfg := by rfl) (hs : u.sp = s.sp := by rfl) :
    Within i s u := ⟨hc, hg, fun _ => hs, hp⟩

theorem within_busWrite (i : Instr) (a : Word) (v : Byte) (s : State) : Within i s (s.busWrite a v) :=
  .of_eq (by simp) (by simp) (by simp) (by simp)

theorem within_resolve (i : Instr) (m : Mode) (s : State) : Within i s (s.resolve m).2 :=
  .of_eq (by simp) (by simp) (by simp) (by simp)

theorem within_readOperand (i : Instr) (m : Mode) (s : State) : Within i s (s.readOperand m).st :=
  .of_eq (by simp) (by simp) (by simp) (by simp)

/-- A read-modify-write changes the flags as its core does. -/
theorem within_rmw {i : Instr} (m : Mode) {k : ByteCore} (hk : ∀ v p, Flags.SameBut (flagsWritten i) p (k v p).2)
    (s : State) : Within i s (s.rmw m k).st := by
  refine ⟨by simp, by simp, fun _ => by simp, ?_⟩
  by_cases hm : m = .acc
  · subst hm
    exact hk s.a s.p
  · rw [State.rmw_p k s hm]
    exact hk _ s.p

/-! ### What an instruction that goes on has done -/

/-- The instruction has raised the failure of its unpopulated opcode, or has run within what it may write and charged
its base cycles and `n` more (R135, R137). -/
def Completed (i : Instr) (s t : State) : Prop :=
  (∃ f, t = { s with fault := some f }) ∨
  ∃ op n, i.opcodeOf = some op ∧ ∃ u, Within i s u ∧ t = { u with cycles := s.cycles + (s.cfg.baseCyclesOf op + n) }

theorem complete_completed {i : Instr} {s u t : State} {op : Byte} {n : Nat} (ho : i.opcodeOf = some op)
    (hw : Within i s u) (h : complete op n u = .next t) : Completed i s t :=
  .inr ⟨op, n, ho, u, hw, by rw [complete_inv h, hw.cycles, hw.cfg]⟩

/-- An instruction behind the check of its row has completed if what runs there has. -/
theorem withRow_completed {i : Instr} {s t : State} {f : Byte → Result} (h : withRow i s f = .next t)
    (hf : ∀ op, i.opcodeOf = some op → f op = .next t → Completed i s t) : Completed i s t := by
  rcases withRow_cases i s f with ⟨-, e⟩ | ⟨op, -, -, e⟩ | ⟨op, ho, -, e⟩
  · rw [e] at h; cases h
  · rw [e] at h
    cases h
    exact .inl ⟨_, rfl⟩
  · exact hf op ho (e ▸ h)

theorem readClass_completed {i : Instr} {m : Mode} {f : Byte → State → State} {s t : State}
    (h : readClass i m f s = .next t) (hf : ∀ v u, Within i u (f v u)) : Completed i s t :=
  withRow_completed h fun _ ho e => complete_completed ho ((within_readOperand i m s).trans (hf _ _)) e

theorem storeClass_completed {i : Instr} {m : Mode} {v : State → Byte} {s t : State}
    (h : storeClass i m v s = .next t) : Completed i s t :=
  withRow_completed h fun _ ho e => complete_completed ho ((within_resolve i m s).trans (within_busWrite ..)) e

theorem rmwClass_completed {i : Instr} {m : Mode} {k : ByteCore} {f : Byte → State → State} {s t : State}
    (h : rmwClass i m k f s = .next t) (hk : ∀ v p, Flags.SameBut (flagsWritten i) p (k v p).2)
    (hf : ∀ v u, Within i u (f v u)) : Completed i s t :=
  withRow_completed h fun _ ho e => complete_completed ho ((within_rmw m hk s).trans (hf _ _)) e

theorem impliedClass_completed {i : Instr} {f : State → State} {s t : State} (h : impliedClass i f s = .next t)
    (hf : Within i s (f s)) : Completed i s t :=
  withRow_completed h fun _ ho e => complete_completed ho hf e

theorem branchClass_completed {i : Instr} {c : Bool} {d : Byte} {s t : State} (h : branchClass i c d s = .next t) :
    Completed i s t := by
  refine withRow_completed h fun _ ho e => ?_
  cases c
  · exact complete_completed (u := s) ho (.refl i s) e
  · exact complete_completed (u := { s with pc := s.pc + sext16 d }) ho (.of_eq rfl rfl rfl rfl) e

theorem unstableStore_completed {i : Instr} {m : Mode} {pre : State → State} {v : State → Byte} {s t : State}
    (h : unstableStore i m pre v s = .next t) (hp : ∀ u, Within i u (pre u)) : Completed i s t := by
  have hw := (within_resolve i m s).trans (hp _)
  refine withRow_completed h fun _ ho e => ?_
  by_cases hc : (s.resolve m).1.crossed = true
  · simp only [hc, if_true] at e
    have hd : Within i (pre (s.resolve m).2) (pre (s.resolve m).2).drawWord.2.drawByte.2 := .of_eq rfl rfl rfl rfl
    exact complete_completed ho ((hw.trans hd).trans (within_busWrite ..)) e
  · simp only [hc] at e
    exact complete_completed ho (hw.trans (within_busWrite ..)) e

/-- Everything but KIL completes within what it may write: one case per computation of the flags. -/
theorem exec_completed (i : Instr) {s t : State} (hk : ∀ op, i ≠ .kil op) (h : exec i s = .next t) :
    Completed i s t := by
  unfold exec at h
  cases i
  case kil op => exact absurd rfl (hk op)
  -- reads
  case lda | ldx | ldy | and | ora | eor | lax | xaa | lxa =>
    exact readClass_completed h fun _ _ => .of_flags (Flags.setNZ_sameBut _ _)
  case las => exact readClass_completed h fun _ _ => ⟨rfl, rfl, nofun, Flags.setNZ_sameBut _ _⟩
  case nopUndoc => exact readClass_completed h fun _ _ => .refl _ _
  case adc => exact readClass_completed h fun _ _ => .of_flags (Flags.afterAdd_sameBut _ _ _)
  case sbc | usbc => exact readClass_completed h fun _ _ => .of_flags (Flags.afterSub_sameBut _ _ _)
  case cmp | cpx | cpy | axs => exact readClass_completed h fun _ _ => .of_flags (Flags.afterCompare_sameBut _ _ _)
  case bit => exact readClass_completed h fun _ _ => .of_flags (Flags.afterBit_sameBut _ _ _)
  case anc | alr => exact readClass_completed h fun _ _ => .of_flags (Flags.setNZC_sameBut _ _ _)
  case arr =>
    exact readClass_completed h fun _ _ => .of_flags (by simp [Flags.sameBut_iff, flagsWritten, Flags.setNZ])
  -- stores
  case sta | stx | sty | sax => exact storeClass_completed h
  case ahx | shy | shx => exact unstableStore_completed h fun _ => .refl _ _
  case tas => exact unstableStore_completed h fun _ => ⟨rfl, rfl, nofun, .of_eq rfl⟩
  -- read-modify-writes
  case inc | dec =>
    exact rmwClass_completed h (fun _ _ => Flags.setNZ_sameBut _ _) fun _ _ => .refl _ _
  case asl | lsr | rol | ror =>
    exact rmwClass_completed h (fun _ _ => Flags.setNZC_sameBut _ _ _) fun _ _ => .refl _ _
  case slo | rla | sre =>
    exact rmwClass_completed h (fun _ _ => Flags.setNZC_sameBut _ _ _)
      fun _ _ => .of_flags ((Flags.setNZ_sameBut _ _).mono (List.nil_subset _))
  case isc =>
    exact rmwClass_completed h (fun _ _ => .of_eq rfl) fun _ _ => .of_flags (Flags.afterSub_sameBut _ _ _)
  case rra =>
    exact rmwClass_completed h
      (fun _ _ => (Flags.setNZC_sameBut _ _ _).mono (List.cons_subset_cons _ (List.nil_subset _)))
      fun _ _ => .of_flags (Flags.afterAdd_sameBut _ _ _)
  case dcp =>
    exact rmwClass_completed h (fun _ _ => .of_eq rfl) fun _ _ => .of_flags (Flags.afterCompare_sameBut _ _ _)
  -- registers and flags
  case tax | tay | txa | tya | tsx | inx | iny | dex | dey =>
    exact impliedClass_completed h (.of_flags (Flags.setNZ_sameBut _ _))
  case txs => exact impliedClass_completed h ⟨rfl, rfl, nofun, .of_eq rfl⟩
  case nop => exact impliedClass_completed h (.refl _ _)
  case clc | sec => exact impliedClass_completed h (.of_flags (Flags.setC_sameBut _ _))
  case cli | sei => exact impliedClass_completed h (.of_flags (Flags.setI_sameBut _ _))
  case cld | sed => exact impliedClass_completed h (.of_flags (Flags.setD_sameBut _ _))
  case clv => exact impliedClass_completed h (.of_flags (Flags.setV_sameBut _ _))
  -- control
  case bcc | bcs | beq | bmi | bne | bpl | bvc | bvs => exact branchClass_completed h
  case jmp =>
    exact withRow_completed h fun op ho e =>
      complete_completed (u := { (s.resolve _).2 with pc := (s.resolve _).1.ea }) ho
        ((within_resolve _ _ s).trans (.of_eq rfl rfl rfl rfl)) e
  -- the stack
  case pha | php | jsr | rts => exact impliedClass_completed h ⟨by simp, by simp, nofun, .of_eq (by simp)⟩
  case pla =>
    refine impliedClass_completed h ⟨by simp, by simp, nofun, ?_⟩
    simpa [flagsWritten] using Flags.setNZ_sameBut s.p s.throwaway.pop.1
  case plp | rti => exact impliedClass_completed h ⟨by simp, by simp, nofun, Flags.sameBut_all _ _⟩
  case brk =>
    refine impliedClass_completed h ⟨by simp, by simp, nofun, ?_⟩
    simpa [flagsWritten] using Flags.setI_sameBut s.p true

/-- What an instruction leaves of SP and of the listed flags (KIL leaves all). -/
theorem exec_frame (i : Instr) {s t : State} (h : exec i s = .next t) :
    (writesSp i = false → t.sp = s.sp) ∧ Flags.SameBut (flagsWritten i) s.p t.p := by
  by_cases hk : ∃ op, i = .kil op
  · obtain ⟨op, rfl⟩ := hk
    obtain ⟨rfl, -⟩ := execKil_inv h
    exact ⟨fun _ => rfl, .of_eq rfl⟩
  · rcases exec_completed i (fun op e => hk ⟨op, e⟩) h with ⟨f, rfl⟩ | ⟨op, n, -, u, hw, rfl⟩
    · exact ⟨fun _ => rfl, .of_eq rfl⟩
    · exact ⟨hw.sp, hw.p⟩

/-- A flag that changed is one the instruction writes. -/
theorem mem_flagsWritten_of_ne {i : Instr} {s t : State} (h : exec i s = .next t) (f : ListedFlag)
    (hne : t.p.get f ≠ s.p.get f) : f ∈ flagsWritten i :=
  by_contra fun hf => hne ((exec_frame i h).2 f hf)

/-- Settles O22, by the frame of `exec` and the list of the writers of SP. -/
theorem stackPointerIsWrittenOnlyByItsInstructions : Obligations.StackPointerIsWrittenOnlyByItsInstructions := by
  unfold Obligations.StackPointerIsWrittenOnlyByItsInstructions
  intro i s t h hne
  have hw : writesSp i = true := by
    by_contra hf
    exact hne ((exec_frame i h).1 (by simpa using hf))
  clear h
  revert hw
  cases i <;> simp [writesSp]

/-- Settles O21, by the frame of `exec` and the list of the writers of each flag. -/
theorem flagsAreWrittenOnlyByTheirInstructions : Obligations.FlagsAreWrittenOnlyByTheirInstructions := by
  unfold Obligations.FlagsAreWrittenOnlyByTheirInstructions
  intro i s t h
  have hw := mem_flagsWritten_of_ne h
  refine ⟨?_ ∘ hw .b, ?_ ∘ hw .d, ?_ ∘ hw .i, ?_ ∘ hw .v, ?_ ∘ hw .c⟩
  all_goals
    clear hw h
    cases i <;> simp [flagsWritten]

/-! ### The fetched instruction -/

/-- The decoder answers an instruction of the opcode byte's own row (R84, R87). -/
theorem decodeOpcode_opcodeOf (op b1 b2 : Byte) : (decodeOpcode op b1 b2).opcodeOf = some op := by
  have row (n : Nat) (hn : n < 256) :
      (decodeOpcode (BitVec.ofNat 8 n) b1 b2).opcodeOf = some (BitVec.ofNat 8 n) := by
    interval_cases n <;> rfl
  simpa using row op.toNat op.isLt

/-- A KIL opcode decodes to KIL (R85, R311). -/
theorem decodeOpcode_kil {op : Byte} (h : op ∈ kilOpcodes) (b1 b2 : Byte) : decodeOpcode op b1 b2 = .kil op := by
  unfold kilOpcodes at h
  fin_cases h <;> rfl

/-- Only a KIL opcode decodes to KIL. -/
theorem mem_kilOpcodes_of_decodeOpcode {op b1 b2 k : Byte} (h : decodeOpcode op b1 b2 = .kil k) :
    op ∈ kilOpcodes := by
  have hop := decodeOpcode_opcodeOf op b1 b2
  rw [h, Laws.Encoding.opcodeOf_own (.kil k) k (P := kilOpcodes.contains k) rfl rfl] at hop
  split at hop
  · next hc =>
    cases hop
    simpa using hc
  · cases hop

/-- What is fetched is the instruction of the opcode byte at PC, and a fetch leaves the counter, the parameters
and the run state. -/
theorem fetchInstr_cases (s : State) :
    ∃ b1 b2 u, s.fetchInstr = (decodeOpcode (s.busRead s.pc).1 b1 b2, u) ∧ u.cycles = s.cycles ∧ u.cfg = s.cfg ∧
      u.halted = s.halted := by
  simp only [State.fetchInstr]
  split
  · exact ⟨_, _, _, rfl, by simp, by simp, by simp⟩
  · split <;> exact ⟨_, _, _, rfl, by simp, by simp, by simp⟩

/-- Of a KIL opcode the opcode byte is all that is fetched. -/
theorem fetchInstr_kil {s : State} (h : (s.busRead s.pc).1 ∈ kilOpcodes) :
    s.fetchInstr = (.kil (s.busRead s.pc).1, s.fetch8.2) := by
  have hl : ∀ op ∈ kilOpcodes, lengthOf op = 1 := by decide
  have hl := hl _ h
  have hd := decodeOpcode_kil h 0 0
  have hop : s.fetch8.1 = (s.busRead s.pc).1 := rfl
  simp only [State.fetchInstr, hop, hl, hd, ite_self]

/-- A running machine that goes on has run the fetched instruction (R131). -/
theorem step_running_inv {s t : State} (hr : s.halted = false) (h : step s = .next t) :
    exec s.fetchInstr.1 s.fetchInstr.2 = .next t := by
  unfold step runFetched at h
  simp only [hr, Bool.false_eq_true, if_false] at h
  split at h
  · cases h
  · split at h
    · cases h
    · exact h

/-- A step that fetches a KIL opcode (R134). -/
theorem step_kil_inv {s t : State} (hr : s.halted = false) (h : step s = .next t)
    (hk : (s.busRead s.pc).1 ∈ kilOpcodes) :
    t = { s.fetch8.2 with halted := true, cycles := s.cycles + s.cfg.kilCycles } := by
  have he := step_running_inv hr h
  rw [fetchInstr_kil hk] at he
  obtain ⟨rfl, -⟩ := execKil_inv he
  simp

/-- A step that fetches another opcode has completed an instruction of that opcode's row and has not halted. -/
theorem step_completed {s t : State} (hr : s.halted = false) (h : step s = .next t)
    (hk : (s.busRead s.pc).1 ∉ kilOpcodes) :
    ∃ i u, i.opcodeOf = some (s.busRead s.pc).1 ∧ u.cycles = s.cycles ∧ u.cfg = s.cfg ∧ Completed i u t ∧
      t.halted = false := by
  obtain ⟨b1, b2, u, hi, hc, hg, hh⟩ := fetchInstr_cases s
  have he := step_running_inv hr h
  rw [hi] at he
  have hn (k : Byte) : decodeOpcode (s.busRead s.pc).1 b1 b2 ≠ .kil k := fun e =>
    hk (mem_kilOpcodes_of_decodeOpcode e)
  refine ⟨_, u, decodeOpcode_opcodeOf _ b1 b2, hc, hg, exec_completed _ hn he, ?_⟩
  rw [← hr, ← hh]
  rcases exec_ended _ he with ⟨k, -, e, -⟩ | ⟨_, -, -, rfl⟩ | ⟨hkept, -⟩
  · exact absurd e (hn k)
  · rfl
  · exact hkept.halted

/-- Settles O20: a step that fetches another opcode has not halted. -/
theorem onlyKilHalts : Obligations.OnlyKilHalts := by
  unfold Obligations.OnlyKilHalts
  intro s t hr h ht
  by_cases hk : (s.busRead s.pc).1 ∈ kilOpcodes
  · rw [step_kil_inv hr h hk]
    simp [hk, State.SameAXYS, State.SameXYS]
  · obtain ⟨-, -, -, -, -, -, hn⟩ := step_completed hr h hk
    rw [hn] at ht
    cases ht

/-! ### The charge of an instruction -/

/-- Every opcode of R424's table but KIL's costs 2 cycles or more (R144). -/
theorem nmosCycles_ge_two : ∀ op : Byte, op ∉ kilOpcodes → 2 ≤ nmosCycles op := by decide

/-- So it does under every table of base cycles that R144 admits. -/
theorem baseCyclesOf_ge_two {cfg : Config} (hw : cfg.wellFormed = true) {op : Byte} (hop : op ∉ kilOpcodes) :
    2 ≤ cfg.baseCyclesOf op := by
  unfold Config.baseCyclesOf
  cases hl : cfg.baseCycles.lookup op with
  | none => exact nmosCycles_ge_two op hop
  | some n =>
    obtain ⟨l₁, l₂, e, -⟩ := List.lookup_eq_some_iff.mp hl
    simp only [Config.wellFormed, Bool.and_eq_true, List.all_eq_true, decide_eq_true_eq] at hw
    exact hw.2 (op, n) (by simp [e])

/-- Settles O19: KIL halts, a raised failure charges nothing, and any other instruction charges its base cycles. -/
theorem everyInstructionChargesTwoCycles : Obligations.EveryInstructionChargesTwoCycles := by
  unfold Obligations.EveryInstructionChargesTwoCycles
  intro s t hw h
  cases hr : s.halted with
  | true =>
    have hs : step s = .next s := by simp [step, hr]
    rw [hs] at h
    cases h
    exact ⟨Nat.le_refl _, nofun⟩
  | false =>
    by_cases hk : (s.busRead s.pc).1 ∈ kilOpcodes
    · rw [step_kil_inv hr h hk]
      exact ⟨Nat.le_add_right _ _, nofun⟩
    · obtain ⟨i, u, hi, hc, hg, ⟨f, rfl⟩ | ⟨op, n, ho, u', -, rfl⟩, -⟩ := step_completed hr h hk
      · exact ⟨hc.ge, nofun⟩
      · rw [hi] at ho
        cases ho
        have := baseCyclesOf_ge_two hw hk
        simp only [hc, hg]
        exact ⟨by omega, fun _ _ _ => by omega⟩

/-! ### D and arithmetic -/

/-- The flags with D set to `d`. -/
def Flags.withD (d : Bool) (p : Flags) : Flags := { p with d := d }

/-- The operand with the decimal flag of its state set to `d`. -/
def Operand.withD (d : Bool) (o : Operand) : Operand := { o with st := o.st.withD d }

section
variable (d : Bool) (s : State)

@[simp] theorem State.withD_inDev (a : Word) : (s.withD d).inDev a = s.inDev a := rfl
@[simp] theorem State.withD_cfg : (s.withD d).cfg = s.cfg := rfl
@[simp] theorem State.withD_x : (s.withD d).x = s.x := rfl
@[simp] theorem State.withD_y : (s.withD d).y = s.y := rfl
@[simp] theorem State.withD_fault : (s.withD d).fault = s.fault := rfl
@[simp] theorem State.withD_a : (s.withD d).a = s.a := rfl
@[simp] theorem State.withD_p : (s.withD d).p = s.p.withD d := rfl

theorem State.busRead_withD (a : Word) :
    (s.withD d).busRead a = ((s.busRead a).1, (s.busRead a).2.withD d) := by
  refine Prod.ext ?_ ?_
  · simp only [State.busRead_value]
    rfl
  · simp only [State.busRead_state, State.busRead_value]
    rfl

theorem State.busWrite_withD (a : Word) (v : Byte) : (s.withD d).busWrite a v = (s.busWrite a v).withD d := by
  simp only [State.busWrite_state]
  rfl

theorem State.resolve_withD (m : Mode) :
    (s.withD d).resolve m = ((s.resolve m).1, (s.resolve m).2.withD d) := by
  cases m
  case ind | izx | izy =>
    simp only [State.resolve, State.jmpPointer, State.zpPointer, State.busRead_withD, State.withD_cfg, State.withD_x,
      State.withD_y]
  all_goals rfl

theorem State.readOperand_withD (m : Mode) : (s.withD d).readOperand m = (s.readOperand m).withD d := by
  cases m
  case imp | acc | imm => rfl
  all_goals
    simp only [State.readOperand, State.resolve_withD, State.busRead_withD]
    rfl

/-- A core that gives the same byte and flags whatever D holds, but for D itself. -/
def IgnoresD (k : ByteCore) : Prop := ∀ d v p, k v (p.withD d) = ((k v p).1, (k v p).2.withD d)

theorem State.rmw_withD (m : Mode) {k : ByteCore} (hk : IgnoresD k) :
    (s.withD d).rmw m k = (s.rmw m k).withD d := by
  by_cases hm : m = .acc
  · subst hm
    simp only [State.rmw, State.withD_a, State.withD_p, hk d]
    rfl
  · rw [State.rmw_memory k _ hm, State.rmw_memory k _ hm]
    simp only [State.resolve_withD, State.busRead_withD, State.busWrite_withD, State.withD_p, hk d]
    rfl

theorem commit_withD : commit (s.withD d) = Result.withD d (commit s) := by
  unfold commit
  rw [State.withD_fault]
  split <;> rfl

theorem complete_withD (op : Byte) (n : Nat) : complete op n (s.withD d) = Result.withD d (complete op n s) :=
  commit_withD d { s with cycles := s.cycles + (s.cfg.baseCyclesOf op + n) }

end

section
variable {i : Instr} (d : Bool) (s : State) (m : Mode) {f : Byte → State → State}
  (hf : ∀ v u, f v (u.withD d) = (f v u).withD d)

theorem withRow_withD {g g' : Byte → Result} (hg : ∀ op, g' op = Result.withD d (g op)) :
    withRow i (s.withD d) g' = Result.withD d (withRow i s g) := by
  unfold withRow
  cases i.opcodeOf with
  | none => rfl
  | some op =>
    simp only [State.withD_cfg, hg]
    split <;> rfl

include hf

/-- A read-class instruction whose `f` does not read D. -/
theorem readClass_withD : readClass i m f (s.withD d) = Result.withD d (readClass i m f s) :=
  withRow_withD d s fun op => by
    simp only [State.readOperand_withD, Operand.withD, hf, complete_withD]

/-- A read-modify-write whose core and `f` do not read D. -/
theorem rmwClass_withD {k : ByteCore} (hk : IgnoresD k) :
    rmwClass i m k f (s.withD d) = Result.withD d (rmwClass i m k f s) :=
  withRow_withD d s fun op => by
    simp only [State.rmw_withD d s m hk, Operand.withD, State.withD_cfg, hf, complete_withD]

end

/-- Settles O18: the operand, the core and what follows it are the same whatever D holds. -/
theorem decimalFlagHasNoEffectOnArithmetic : Obligations.DecimalFlagHasNoEffectOnArithmetic := by
  unfold Obligations.DecimalFlagHasNoEffectOnArithmetic
  intro m v d s
  unfold exec
  refine ⟨?adc, ?sbc, ?isc, ?rra, ?usbc, ?arr, ?axs, ?cmp, ?cpx, ?cpy, ?dcp⟩
  case isc | rra | dcp =>
    refine rmwClass_withD d s m ?_ ?_
    · intros; rfl
    · intro _ _ _; rfl
  all_goals
    refine readClass_withD d s _ ?_
    intros; rfl

end Sys2Proof.Machine
end

section
/-! The invariant of the machine (R51, R53, R38, R35) and what no step changes (R53, R51), from what every operation
keeps; and what the bus and the calls of memory do (R51 to R61, R72). -/

namespace Sys2Proof.Machine

/-! ### The cases of a step -/

theorem kept_fetchInstr (s : State) : Kept s s.fetchInstr.2 := by
  have h1 := kept_fetch8 s
  have h2 := h1.trans (kept_fetch8 _)
  have h3 := h2.trans (kept_fetch8 _)
  simp only [State.fetchInstr]
  split
  · exact h1
  · split
    · exact h1
    · exact h2
    · exact h3

theorem step_halted {s : State} (h : s.halted = true) : step s = .next s := by simp [step, h]

/-- A running machine with no failure recorded fetches and dispatches (R131). -/
theorem step_running {s : State} (hr : s.halted = false) (hf : s.fault = none) : step s = runFetched s.fetchInstr := by
  simp [step, hr, hf]

theorem step_faulted {s : State} {f : Fault} (hr : s.halted = false) (hf : s.fault = some f) : step s = .fault f := by
  simp [step, hr, hf]

/-- A step that goes on was taken halted and changed nothing, or has run a fetched instruction, with no failure
recorded before the fetch or in it (R131, R140). -/
theorem step_next_cases {s t : State} (h : step s = .next t) :
    (s.halted = true ∧ t = s) ∨
    (s.halted = false ∧ s.fault = none ∧ s.fetchInstr.2.fault = none ∧
      exec s.fetchInstr.1 s.fetchInstr.2 = .next t) := by
  cases hr : s.halted with
  | true =>
    rw [step_halted hr] at h
    cases h
    exact .inl ⟨rfl, rfl⟩
  | false =>
    cases hf : s.fault with
    | some f => rw [step_faulted hr hf] at h; cases h
    | none =>
      rw [step_running hr hf] at h
      unfold runFetched at h
      split at h
      · cases h
      · next hn => exact .inr ⟨rfl, rfl, hn, h⟩

/-! ### The invariant -/

/-- An opcode that is not populated is an optional one, so no KIL, and its class is `unpopulated` (R132, R133). -/
theorem classOf_unpopulated {cfg : Config} {op : Byte} (h : cfg.populates op = false) :
    cfg.classOf op = .unpopulated := by
  have hk : ∀ b ∈ kilOpcodes, optionalOpcodes.contains b = false := by decide
  have hc : op ∉ kilOpcodes := fun hc => by
    rw [populates_of_not_optional cfg (hk op hc)] at h
    cases h
  simp [Config.classOf, hc, h]

/-- The failure raised for an unpopulated opcode is recorded under its own label (R135, R136). -/
theorem faultWf_raised (s : State) {op : Byte} (h : s.cfg.populates op = false) :
    ({ s with fault := some (unpopulatedFailure s.cfg op) } : State).faultWf := by
  have hc := classOf_unpopulated h
  unfold State.faultWf unpopulatedFailure
  by_cases hl : op ∈ s.cfg.illegalLabelled
  · simpa [hl] using hc
  · simpa [hl] using hc

theorem State.faultWf_congr {s t : State} (hc : t.cfg = s.cfg) (hf : t.fault = s.fault) (h : s.faultWf) :
    t.faultWf := by
  unfold State.faultWf at h ⊢
  rw [hf, hc]
  exact h

/-- What keeps the parts and goes out of range nowhere keeps the invariant. -/
theorem Kept.inv {s t : State} (h : Kept s t) (hr : ∀ a, t.fault ≠ some (.busOutOfRange a)) (hi : s.Inv) : t.Inv := by
  obtain ⟨hm, hd, hw, hh⟩ := hi
  have hf : t.fault = s.fault := by
    rcases h.fault with e | ⟨-, a, e⟩
    · exact e
    · exact absurd e (hr a)
  refine ⟨h.wf hm, by rw [h.dev]; exact hd, State.faultWf_congr h.cfg hf hw, fun e => ?_⟩
  rw [hf]
  exact hh (h.halted.symm.trans e)

/-- An instruction keeps the invariant where it is dispatched: running, and with no failure recorded (R131). -/
theorem exec_inv {i : Instr} {s t : State} (hr : s.halted = false) (hf : s.fault = none) (hi : s.Inv)
    (h : exec i s = .next t) : t.Inv := by
  have ⟨hm, hd, hw, _⟩ := hi
  rcases exec_ended i h with ⟨op, -, -, rfl⟩ | ⟨op, -, hp, rfl⟩ | ⟨hk, hb⟩
  · exact ⟨hm, hd, State.faultWf_congr (s := s) rfl rfl hw, fun _ => hf⟩
  · exact ⟨hm, hd, faultWf_raised s hp, fun e => by rw [hr] at e; cases e⟩
  · exact hk.inv hb hi

/-- Settles O14: the fetch keeps the invariant, and so does the instruction dispatched after it. -/
theorem stepKeepsTheInvariant : Obligations.StepKeepsTheInvariant := by
  unfold Obligations.StepKeepsTheInvariant
  intro s t hi h
  rcases step_next_cases h with ⟨-, rfl⟩ | ⟨hr, -, hn, he⟩
  · exact hi
  · have hk := kept_fetchInstr s
    have hi' : s.fetchInstr.2.Inv := hk.inv (fun a e => by rw [hn] at e; cases e) hi
    exact exec_inv (hk.halted.trans hr) hn hi' he

/-- Settles O13: nothing is listed, no handler is installed, no failure is recorded. -/
theorem resetHasTheInvariant : Obligations.ResetHasTheInvariant :=
  ⟨rfl, rfl, trivial, nofun⟩

/-! ### Handlers, size and parameters -/

theorem exec_keeps_handlers {i : Instr} {s t : State} (h : exec i s = .next t) :
    t.dev = s.dev ∧ t.memSize = s.memSize ∧ t.cfg = s.cfg := by
  rcases exec_ended i h with ⟨op, -, -, rfl⟩ | ⟨op, -, -, rfl⟩ | ⟨hk, -⟩
  · exact ⟨rfl, rfl, rfl⟩
  · exact ⟨rfl, rfl, rfl⟩
  · exact ⟨hk.dev, hk.memSize, hk.cfg⟩

/-- Settles O15: neither the fetch nor the instruction changes them. -/
theorem stepKeepsHandlersAndParameters : Obligations.StepKeepsHandlersAndParameters := by
  unfold Obligations.StepKeepsHandlersAndParameters
  intro s t h
  rcases step_next_cases h with ⟨-, rfl⟩ | ⟨-, -, -, he⟩
  · exact ⟨rfl, rfl, rfl⟩
  · have hk := kept_fetchInstr s
    obtain ⟨hd, hm, hc⟩ := exec_keeps_handlers he
    exact ⟨hd.trans hk.dev, hm.trans hk.memSize, hc.trans hk.cfg⟩

/-! ### The calls of memory -/

/-- After an installation at `a` the devices are `a` and those there were (R53). -/
theorem contains_devInsert (a b : Word) (d : List Nat) :
    (devInsert a.toNat d).contains b.toNat = (decide (b = a) || d.contains b.toNat) := by
  have hn : b.toNat = a.toNat ↔ b = a := BitVec.toNat_inj
  rw [Bool.eq_iff_iff]
  simp [mem_devInsert, hn]

/-- Settles O59, by the laws of an image's cells and of the handler list. -/
theorem imagesHandlersAndTheSafeRead : Obligations.ImagesHandlersAndTheSafeRead := by
  unfold Obligations.ImagesHandlersAndTheSafeRead
  intro image a b s
  have hcell : (loadImage image s).peek a = image.getD a.toNat 0 := Memory.read_ofBytes image a.isLt
  have hsafe (h : a.toNat < s.memSize) : safeRead a s = s.peek a := by simp [safeRead, h]
  exact ⟨fun _ => hcell, rfl, rfl, ⟨rfl, rfl, rfl, rfl⟩, rfl, rfl, contains_devInsert a b s.dev,
    contains_devInsert a b s.dev, hsafe⟩

/-! ### The bus -/

/-- A plain address reads as the byte just written (R54). -/
theorem State.busRead_busWrite {s : State} (h : s.Full) (hw : s.mem.wf = true) {a : Word} (hd : s.inDev a = false)
    (v : Byte) : ((s.busWrite a v).busRead a).1 = v := by
  have hd' : (s.busWrite a v).inDev a = false := (State.inDev_congr (by simp) a).trans hd
  exact (State.busRead_plain hd').trans (State.peek_busWrite_same h hw hd v)

/-- A word at plain addresses reads as its two cells, the low byte first (R58, R60). -/
theorem State.readWord_plain {s : State} {a : Word} (h : s.Plain [a, a + 1]) :
    (s.readWord a).1 = cat (s.peek (a + 1)) (s.peek a) := by
  have hlo : s.inDev a = false := h a (by simp)
  have hhi : (s.busRead a).2.inDev (a + 1) = false := (State.inDev_congr (by simp) _).trans (h _ (by simp))
  simp only [State.readWord, State.busRead_plain hlo, State.busRead_plain hhi]
  rw [State.peek_congr (s := s) (by simp)]

/-- The cells after a word was written at plain addresses: the low byte at the address, the high byte at the next,
which after 0xFFFF is 0x0000 (R59, R60). -/
theorem State.peek_writeWord {s : State} (h : s.Full) (hw : s.mem.wf = true) {a : Word} (hp : s.Plain [a, a + 1])
    (w : Word) : (s.writeWord a w).peek a = loByte w ∧ (s.writeWord a w).peek (a + 1) = hiByte w := by
  have hne : a ≠ a + 1 := by bv_omega
  have hf : (s.busWrite a (loByte w)).Full := h.of_memSize (by simp)
  have hd : (s.busWrite a (loByte w)).inDev (a + 1) = false :=
    (State.inDev_congr (by simp) _).trans (hp _ (by simp))
  refine ⟨?_, State.peek_busWrite_same hf ((kept_busWrite _ _ s).wf hw) hd _⟩
  exact (State.peek_busWrite_other hne _ _).trans (State.peek_busWrite_same h hw (hp a (by simp)) _)

/-- Settles O60, by the laws of one read and one write and of the two bytes of a word. -/
theorem busReadsBackWhatItWrote : Obligations.BusReadsBackWhatItWrote := by
  unfold Obligations.BusReadsBackWhatItWrote
  intro a v w s h hw
  refine ⟨fun hd => State.busRead_busWrite h hw hd v, fun hp => ?_, fun hd => ⟨?_, State.peek_busWrite_dev hd v⟩,
    State.busRead_bus h a, State.busWrite_bus h a v⟩
  · obtain ⟨hlo, hhi⟩ := State.peek_writeWord h hw hp w
    have hp' : (s.writeWord a w).Plain [a, a + 1] := fun b hb => (State.inDev_congr (by simp) b).trans (hp b hb)
    refine ⟨?_, hlo, hhi⟩
    rw [State.readWord_plain hp', hlo, hhi, cat_hiByte_loByte]
  · simp [State.busRead_value, hd]

end Sys2Proof.Machine
end

section
/-! Accesses beyond the image (R52): which addresses every instruction, its fetch and the calls access, and that the
first one beyond the image stops them. -/

namespace Sys2Proof.Machine

/-! ### The operand of a row -/

/-- The formats whose instructions access an effective address (R102 to R110; JMP's pointer is no operand). -/
def memoryFormats : List Format := [.ZP, .ZPX, .ZPY, .ABS, .ABSX, .ABSY, .IZX, .IZY]

/-- The accesses of an operand: the pointer's bytes and the effective address, where its format has one. -/
def State.operandAccesses (s : State) (m : Mode) : List Word :=
  if m.format ∈ memoryFormats then s.pointerReads m ++ [(s.resolve m).1.ea] else []

theorem State.operandAccesses_memory {m : Mode} (h : m.format ∈ memoryFormats) (s : State) :
    s.operandAccesses m = s.pointerReads m ++ [(s.resolve m).1.ea] := if_pos h

/-- The format of an instruction with a row is one of its forms' formats. -/
theorem format_of_row {i : Instr} {op : Byte} {fs : List Format} (h : i.opcodeOf = some op)
    (hf : i.forms.all (fun e => fs.contains e.1) = true) : i.mode.format ∈ fs := by
  simpa using List.all_eq_true.mp hf _ (opcodeOf_mem h)

theorem accessed_readOperand_row {m : Mode} (h : m.format ∈ .IMP :: .IMM :: memoryFormats) (s : State) :
    Accessed s (s.readOperand m).st (s.operandAccesses m) := by
  cases m
  case imp | imm => exact .of_eq rfl rfl rfl
  case acc | ind | rel => simp [Mode.format, memoryFormats] at h
  all_goals exact accessed_readOperand (by simp) (by simp) (by simp) s

theorem accessed_rmw_row {m : Mode} (h : m.format ∈ .ACC :: memoryFormats) (k : ByteCore) (s : State) :
    Accessed s (s.rmw m k).st (s.operandAccesses m) := by
  by_cases hm : m = .acc
  · subst hm
    exact .of_eq rfl rfl rfl
  · have hf : m.format ∈ memoryFormats := by
      cases m
      case acc => exact absurd rfl hm
      all_goals simpa [Mode.format] using h
    rw [s.operandAccesses_memory hf]
    exact accessed_rmw hm k s

/-! ### The throwaway read, then the stack (R112) -/

section
variable (s : State)

theorem accessed_throwaway_push (v : Byte) : Accessed s (s.throwaway.push v) [s.pc, stackAddr s.sp] := by
  simpa using (accessed_throwaway s).trans (accessed_push v s.throwaway)

theorem accessed_throwaway_pop : Accessed s s.throwaway.pop.2 [s.pc, stackAddr (s.sp + 1)] := by
  simpa using (accessed_throwaway s).trans (accessed_pop s.throwaway)

theorem accessed_throwaway_popWord :
    Accessed s s.throwaway.popWord.2 [s.pc, stackAddr (s.sp + 1), stackAddr (s.sp + 2)] := by
  simpa using (accessed_throwaway s).trans (accessed_popWord s.throwaway)

theorem accessed_throwaway_return :
    Accessed s s.throwaway.returnFromInterrupt
      [s.pc, stackAddr (s.sp + 1), stackAddr (s.sp + 2), stackAddr (s.sp + 3)] := by
  simpa using (accessed_throwaway s).trans (accessed_returnFromInterrupt s.throwaway)

end

/-! ### Every instruction -/

/-- The format of an undocumented NOP's row (R320). -/
theorem undocNop_format {op b : Byte} {m : Mode} (h : (Instr.nopUndoc op m).opcodeOf = some b) :
    m.format ∈ .IMP :: .IMM :: memoryFormats := by
  cases m
  case acc | zpY | absY | ind | izx | izy | rel => cases h
  all_goals simp [Mode.format, memoryFormats]

section
variable {op : Byte} {s : State} (hp : s.cfg.populates op = true) (hs : s.fault = none)
include hp hs

/-- An instruction that is a read of its operand. -/
theorem read_stops {i : Instr} (h : i.opcodeOf = some op) {f : Byte → State → State}
    (hm : i.mode.format ∈ .IMP :: .IMM :: memoryFormats) (hf : ∀ v u, Accessed u (f v u) []) :
    Stops s (s.operandAccesses i.mode) (readClass i i.mode f s) :=
  readClass_stops h hp hs f (accessed_readOperand_row hm s) hf

theorem store_stops {i : Instr} (h : i.opcodeOf = some op) (v : State → Byte) (hm : i.mode.format ∈ memoryFormats) :
    Stops s (s.operandAccesses i.mode) (storeClass i i.mode v s) := by
  rw [s.operandAccesses_memory hm]
  exact storeClass_stops h hp hs i.mode v

theorem rmw_stops {i : Instr} (h : i.opcodeOf = some op) {k : ByteCore} {f : Byte → State → State}
    (hm : i.mode.format ∈ .ACC :: memoryFormats) (hf : ∀ v u, Accessed u (f v u) []) :
    Stops s (s.operandAccesses i.mode) (rmwClass i i.mode k f s) := by
  unfold rmwClass
  rw [withRow_some h hp]
  exact stops_complete hs ((accessed_rmw_row hm k s).nil_right (hf _ _)) op _

theorem unstable_stops {i : Instr} (h : i.opcodeOf = some op) (pre : State → State) (v : State → Byte)
    (hf : ∀ u, pre u = { u with sp := (pre u).sp }) :
    Stops s (s.pointerReads i.mode ++ [s.unstableAddr i.mode]) (unstableStore i i.mode pre v s) :=
  unstableStore_stops h hp hs i.mode pre v hf

/-- Every populated instruction stops at its first access beyond the image, and goes on where it has none (R52). -/
theorem exec_stops (i : Instr) (h : i.opcodeOf = some op) : Stops s (s.accesses i) (exec i s) := by
  have implied {f : State → State} {as : List Word} (ha : Accessed s (f s) as) : Stops s as (impliedClass i f s) :=
    impliedClass_stops h hp hs ha
  have row {f : Byte → Result} {as : List Word} (hf : Stops s as (f op)) : Stops s as (withRow i s f) := by
    rwa [withRow_some h hp]
  unfold exec
  cases i
  -- reads
  case lda | ldx | ldy | adc | sbc | and | ora | eor | cmp | cpx | cpy | bit | usbc | alr | arr | axs | xaa | lxa | lax
      | las =>
    refine read_stops hp hs h (format_of_row h rfl) ?_
    intros
    exact .of_eq rfl rfl rfl
  case anc =>
    refine read_stops hp hs h (by simp [Instr.mode, Mode.format]) ?_
    intros
    exact .of_eq rfl rfl rfl
  case nopUndoc => exact read_stops hp hs h (undocNop_format h) fun _ _ => .of_eq rfl rfl rfl
  -- stores
  case sta | stx | sty | sax => exact store_stops hp hs h _ (format_of_row h rfl)
  case ahx | shy | shx | tas =>
    refine unstable_stops hp hs h _ _ ?_
    intros
    rfl
  -- read-modify-writes
  case inc | dec | asl | lsr | rol | ror | slo | isc | rla | sre | rra | dcp =>
    refine rmw_stops hp hs h (format_of_row h rfl) ?_
    intros
    exact .of_eq rfl rfl rfl
  -- registers and flags
  case tax | tay | txa | tya | tsx | txs | inx | iny | dex | dey | clc | cld | cli | clv | sec | sed | sei | nop =>
    exact implied (.of_eq rfl rfl rfl)
  case kil =>
    refine row (stops_commit hs ?_)
    exact .of_eq rfl rfl rfl
  -- control
  case bcc | bcs | beq | bmi | bne | bpl | bvc | bvs => exact branchClass_stops h hp hs _ _
  case jmp m =>
    refine row (stops_complete hs ((accessed_resolve m s).nil_right ?_) op 0)
    exact .of_eq rfl rfl rfl
  case jsr => exact implied ((accessed_pushWord _ s).nil_right (.of_eq rfl rfl rfl))
  case brk => exact implied (accessed_interruptEntry irqVector _ s)
  -- the throwaway read, then the stack
  case pha | php => exact implied (accessed_throwaway_push s _)
  case pla | plp => exact implied ((accessed_throwaway_pop s).nil_right (.of_eq rfl rfl rfl))
  case rts => exact implied ((accessed_throwaway_popWord s).nil_right (.of_eq rfl rfl rfl))
  case rti => exact implied (accessed_throwaway_return s)

end

/-! ### An instruction faults for no other reason -/

section
variable (i : Instr) (m : Mode) (f : State → State) (g : Byte → State → State) (v : State → Byte) (k : ByteCore)
  (c : Bool) (d : Byte) (s : State)

theorem readClass_withRow : ∃ h, readClass i m g s = withRow i s h := ⟨_, rfl⟩
theorem storeClass_withRow : ∃ h, storeClass i m v s = withRow i s h := ⟨_, rfl⟩
theorem rmwClass_withRow : ∃ h, rmwClass i m k g s = withRow i s h := ⟨_, rfl⟩
theorem impliedClass_withRow : ∃ h, impliedClass i f s = withRow i s h := ⟨_, rfl⟩
theorem branchClass_withRow : ∃ h, branchClass i c d s = withRow i s h := ⟨_, rfl⟩
theorem unstableStore_withRow : ∃ h, unstableStore i m f v s = withRow i s h := ⟨_, rfl⟩

end

/-- Every meaning is behind the check of its row (R82, R131). -/
theorem exec_withRow (i : Instr) (s : State) : ∃ f, exec i s = withRow i s f := by
  unfold exec
  cases i
  case lda | ldx | ldy | adc | sbc | and | ora | eor | cmp | cpx | cpy | bit | usbc | anc | alr | arr | axs | xaa | lxa
      | lax | las | nopUndoc =>
    exact readClass_withRow _ _ _ s
  case sta | stx | sty | sax => exact storeClass_withRow _ _ _ s
  case ahx | shy | shx | tas => exact unstableStore_withRow _ _ _ _ s
  case inc | dec | asl | lsr | rol | ror | slo | isc | rla | sre | rra | dcp => exact rmwClass_withRow _ _ _ _ s
  case bcc | bcs | beq | bmi | bne | bpl | bvc | bvs => exact branchClass_withRow _ _ _ s
  case kil | jmp => exact ⟨_, rfl⟩
  all_goals exact impliedClass_withRow _ _ s

/-- An instruction of an unpopulated row raises its failure (R135). -/
theorem exec_unpopulated {i : Instr} {op : Byte} {s : State} (h : i.opcodeOf = some op)
    (hp : s.cfg.populates op = false) : exec i s = raiseUnpopulated op s := by
  obtain ⟨f, hf⟩ := exec_withRow i s
  simp [hf, withRow, h, hp]

/-- An instruction of a row faults only at an address beyond the image (R52). -/
theorem exec_fault_inv {i : Instr} {op : Byte} {s : State} {f : Fault} (h : i.opcodeOf = some op)
    (hs : s.fault = none) (he : exec i s = .fault f) : ∃ a, f = .busOutOfRange a ∧ s.beyond a = true := by
  cases hp : s.cfg.populates op with
  | false =>
    rw [exec_unpopulated h hp] at he
    cases he
  | true =>
    obtain ⟨hstop, hnext⟩ := exec_stops hp hs i h
    cases ha : (s.accesses i).find? s.beyond with
    | none =>
      obtain ⟨t, ht⟩ := hnext ha
      rw [ht] at he
      cases he
    | some a =>
      rw [hstop a ha] at he
      cases he
      exact ⟨a, rfl, List.find?_some ha⟩

/-! ### The fetch and the step -/

/-- The addresses a fetch reads: PC, and those of the operand bytes unless the opcode is unpopulated (R80, R135). -/
def State.fetchReads (s : State) : List Word :=
  s.pc :: if s.cfg.classOf (s.busRead s.pc).1 = .unpopulated then []
    else [s.pc + 1, s.pc + 2].take (lengthOf (s.busRead s.pc).1 - 1)

theorem lengthOf_mem (op : Byte) : lengthOf op ∈ [1, 2, 3] := by
  revert op
  decide

theorem accessed_fetchInstr (s : State) : Accessed s s.fetchInstr.2 s.fetchReads := by
  have h1 := accessed_fetch8 s
  have h2 := h1.trans (accessed_fetch8 s.fetch8.2)
  have h3 := h2.trans (accessed_fetch8 s.fetch8.2.fetch8.2)
  have e : s.pc + 1 + 1 = s.pc + 2 := by rw [BitVec.add_assoc]; rfl
  simp only [State.fetch8_pc, e, List.cons_append] at h2 h3
  have hl := lengthOf_mem (s.busRead s.pc).1
  have hop : s.fetch8.1 = (s.busRead s.pc).1 := rfl
  simp only [State.fetchInstr, State.fetchReads, State.fetch8_cfg, hop]
  split
  · exact h1
  · simp only [List.mem_cons, List.not_mem_nil, or_false] at hl
    rcases hl with hl | hl | hl
    · simpa [hl] using h1
    · simpa [hl] using h2
    · simpa [hl] using h3

section
variable {s : State} (hr : s.halted = false) (hs : s.fault = none)
include hs

/-- The failure record after the fetch: the first address of it beyond the image. -/
theorem fetchInstr_fault : s.fetchInstr.2.fault = (s.fetchReads.find? s.beyond).map .busOutOfRange := by
  simp [(accessed_fetchInstr s).fault, State.faultAfter, hs]

include hr

/-- A fetch that goes out of range ends the step at its first such access. -/
theorem step_fetch_stops : s.StopsIn s.fetchReads (step s) := by
  intro a ha
  have hf := fetchInstr_fault hs
  rw [ha] at hf
  rw [step_running hr hs, runFetched, hf]
  rfl

/-- A step with no failure recorded faults only at an address beyond the image (R52). -/
theorem step_fault_inv {f : Fault} (h : step s = .fault f) : ∃ a, f = .busOutOfRange a ∧ s.beyond a = true := by
  cases ha : s.fetchReads.find? s.beyond with
  | some a =>
    rw [step_fetch_stops hr hs a ha] at h
    cases h
    exact ⟨a, rfl, List.find?_some ha⟩
  | none =>
    have hf : s.fetchInstr.2.fault = none := by rw [fetchInstr_fault hs, ha]; rfl
    have hk := accessed_fetchInstr s
    rw [step_running hr hs, runFetched, hf] at h
    rw [← State.beyond_congr hk.dev hk.memSize]
    obtain ⟨b1, b2, u, hi, -⟩ := fetchInstr_cases s
    have hop : s.fetchInstr.1.opcodeOf = some (s.busRead s.pc).1 := by
      rw [hi]
      exact decodeOpcode_opcodeOf _ b1 b2
    exact exec_fault_inv hop hf h

end

/-! ### The calls -/

theorem resetCall_stops (s : State) : s.StopsIn [0xFFFC, 0xFFFD] (resetCall s) := by
  have read {t : State} (hf : t.fault = none) (hb : t.beyond = s.beyond) :
      s.StopsIn [0xFFFC, 0xFFFD]
        (commit { (t.readWord resetVector).2 with pc := (t.readWord resetVector).1 }) := by
    unfold State.StopsIn
    rw [← hb]
    refine (stops_commit hf ((accessed_readWord resetVector t).nil_right ?_)).1
    exact .of_eq rfl rfl rfl
  exact read rfl rfl

theorem takeInterrupt_stops {s : State} (hs : s.fault = none) (v : Word) :
    s.StopsIn [stackAddr s.sp, stackAddr (s.sp - 1), stackAddr (s.sp - 2), v, v + 1] (takeInterrupt v s) := by
  refine (stops_commit hs ((accessed_interruptEntry v s.statusByte s).nil_right ?_)).1
  exact .of_eq rfl rfl rfl

theorem nmiCall_running {s : State} (hr : s.halted = false) (hs : s.fault = none) :
    nmiCall s = takeInterrupt nmiVector s := by
  simp [nmiCall, hr, hs]

theorem irqCall_running {s : State} (hr : s.halted = false) (hs : s.fault = none) (hi : s.p.i = false) :
    irqCall s = takeInterrupt irqVector s := by
  simp [irqCall, hr, hs, hi]

/-- An address beyond the image has the default handler and no cell. -/
theorem State.beyond_iff {s : State} {a : Word} : s.beyond a = true ↔ s.inDev a = false ∧ s.memSize ≤ a.toNat := by
  simp [State.beyond]

/-- Settles O10: the accesses of every instruction, of the fetch and of the calls, each stopped at its first address
beyond the image. -/
theorem accessOutOfRangeStops : Obligations.AccessOutOfRangeStops := by
  unfold Obligations.AccessOutOfRangeStops
  intro s hs
  refine ⟨fun i op h hp => exec_stops hp hs i h, fun hr => ⟨fun a ha => ?_, fun hb hc a ha => ?_, fun f h => ?_⟩,
    resetCall_stops s, fun hr => ⟨?_, fun hi => ?_⟩⟩
  · refine step_fetch_stops hr hs a ?_
    rw [State.fetchReads, ← List.singleton_append, List.find?_append, ha]
    rfl
  · refine step_fetch_stops hr hs a ?_
    rw [State.fetchReads, if_neg hc, List.find?_cons_of_neg (by simp [hb])]
    exact ha
  · obtain ⟨a, hf, hb⟩ := step_fault_inv hr hs h
    exact ⟨a, hf, State.beyond_iff.mp hb⟩
  · rw [nmiCall_running hr hs]
    exact takeInterrupt_stops hs nmiVector
  · rw [irqCall_running hr hs hi]
    exact takeInterrupt_stops hs irqVector

end Sys2Proof.Machine
end

section
/-! Encoding and decoding (R80 to R84, R87): what the decoder answers on any bytes, that the row of an instruction
decodes to it, and the two round trips; then what runs on a term that is no populated row (R82, R135, R310). -/

namespace Sys2Proof.Machine

/-! ### Rows and well-formed instructions -/

/-- The family of `Laws.Encoding`, over every instruction. -/
theorem encoding_statement : ∀ i : Instr, Laws.Encoding.Statement i
  | .lda m => Laws.Encoding.lda m
  | .ldx m => Laws.Encoding.ldx m
  | .ldy m => Laws.Encoding.ldy m
  | .sta m => Laws.Encoding.sta m
  | .stx m => Laws.Encoding.stx m
  | .sty m => Laws.Encoding.sty m
  | .tax => Laws.Encoding.tax
  | .tay => Laws.Encoding.tay
  | .txa => Laws.Encoding.txa
  | .tya => Laws.Encoding.tya
  | .tsx => Laws.Encoding.tsx
  | .txs => Laws.Encoding.txs
  | .adc m => Laws.Encoding.adc m
  | .sbc m => Laws.Encoding.sbc m
  | .and m => Laws.Encoding.and m
  | .ora m => Laws.Encoding.ora m
  | .eor m => Laws.Encoding.eor m
  | .cmp m => Laws.Encoding.cmp m
  | .cpx m => Laws.Encoding.cpx m
  | .cpy m => Laws.Encoding.cpy m
  | .bit m => Laws.Encoding.bit m
  | .inc m => Laws.Encoding.inc m
  | .dec m => Laws.Encoding.dec m
  | .inx => Laws.Encoding.inx
  | .iny => Laws.Encoding.iny
  | .dex => Laws.Encoding.dex
  | .dey => Laws.Encoding.dey
  | .asl m => Laws.Encoding.asl m
  | .lsr m => Laws.Encoding.lsr m
  | .rol m => Laws.Encoding.rol m
  | .ror m => Laws.Encoding.ror m
  | .bcc d => Laws.Encoding.bcc d
  | .bcs d => Laws.Encoding.bcs d
  | .beq d => Laws.Encoding.beq d
  | .bmi d => Laws.Encoding.bmi d
  | .bne d => Laws.Encoding.bne d
  | .bpl d => Laws.Encoding.bpl d
  | .bvc d => Laws.Encoding.bvc d
  | .bvs d => Laws.Encoding.bvs d
  | .jmp m => Laws.Encoding.jmp m
  | .jsr target => Laws.Encoding.jsr target
  | .rts => Laws.Encoding.rts
  | .pha => Laws.Encoding.pha
  | .php => Laws.Encoding.php
  | .pla => Laws.Encoding.pla
  | .plp => Laws.Encoding.plp
  | .clc => Laws.Encoding.clc
  | .cld => Laws.Encoding.cld
  | .cli => Laws.Encoding.cli
  | .clv => Laws.Encoding.clv
  | .sec => Laws.Encoding.sec
  | .sed => Laws.Encoding.sed
  | .sei => Laws.Encoding.sei
  | .nop => Laws.Encoding.nop
  | .brk pad => Laws.Encoding.brk pad
  | .rti => Laws.Encoding.rti
  | .kil op => Laws.Encoding.kil op
  | .slo m => Laws.Encoding.slo m
  | .isc m => Laws.Encoding.isc m
  | .rla m => Laws.Encoding.rla m
  | .sre m => Laws.Encoding.sre m
  | .rra m => Laws.Encoding.rra m
  | .dcp m => Laws.Encoding.dcp m
  | .lax m => Laws.Encoding.lax m
  | .sax m => Laws.Encoding.sax m
  | .nopUndoc op m => Laws.Encoding.nopUndoc op m
  | .usbc v => Laws.Encoding.usbc v
  | .anc op v => Laws.Encoding.anc op v
  | .alr v => Laws.Encoding.alr v
  | .arr v => Laws.Encoding.arr v
  | .axs v => Laws.Encoding.axs v
  | .las w => Laws.Encoding.las w
  | .xaa v => Laws.Encoding.xaa v
  | .lxa v => Laws.Encoding.lxa v
  | .ahx m => Laws.Encoding.ahx m
  | .shy w => Laws.Encoding.shy w
  | .shx w => Laws.Encoding.shx w
  | .tas w => Laws.Encoding.tas w

theorem wellFormed_eq_isSome (i : Instr) : i.wellFormed = i.opcodeOf.isSome := (encoding_statement i).1

theorem wellFormed_of_opcodeOf {i : Instr} {op : Byte} (h : i.opcodeOf = some op) : i.wellFormed = true := by
  rw [wellFormed_eq_isSome, h]
  rfl

theorem opcodeOf_eq_none {i : Instr} (h : i.wellFormed = false) : i.opcodeOf = none := by
  rwa [wellFormed_eq_isSome, Option.isSome_eq_false_iff, Option.isNone_iff_eq_none] at h

theorem encode_of_opcodeOf {i : Instr} {op : Byte} (h : i.opcodeOf = some op) : encode i = op :: i.operandBytes := by
  simp [encode, h]

theorem lengthOf_of_opcodeOf {i : Instr} {op : Byte} (h : i.opcodeOf = some op) :
    lengthOf op = i.operandBytes.length + 1 := by
  rw [← (encoding_statement i).2 op h, encode_of_opcodeOf h]
  rfl

/-! ### What the decoder answers -/

theorem lengthOf_cases (op : Byte) : lengthOf op = 1 ∨ lengthOf op = 2 ∨ lengthOf op = 3 := by
  simpa using lengthOf_mem op

/-- With all its bytes there, the decoder reads as many as the opcode byte tells and leaves the rest (R80, R82). -/
theorem decode_cons_of_le {op : Byte} {bs : List Byte} (h : lengthOf op ≤ 1 + bs.length) :
    decode (op :: bs) =
      .ok (decodeOpcode op ((bs.take (lengthOf op - 1)).getD 0 0) ((bs.take (lengthOf op - 1)).getD 1 0),
        bs.drop (lengthOf op - 1)) := by
  unfold decode
  rcases lengthOf_cases op with hl | hl | hl
  · simp [hl]
  · obtain _ | ⟨b1, bs⟩ := bs
    · simp [hl] at h
    · simp [hl]
  · obtain _ | ⟨b1, _ | ⟨b2, bs⟩⟩ := bs
    · simp [hl] at h
    · simp [hl] at h
    · simp [hl]

/-- With a byte missing, the decoder refuses by name (R80). -/
theorem decode_cons_of_lt {op : Byte} {bs : List Byte} (h : 1 + bs.length < lengthOf op) :
    decode (op :: bs) = .error (.truncated op) := by
  unfold decode
  rcases lengthOf_cases op with hl | hl | hl
  · omega
  · obtain _ | ⟨b1, bs⟩ := bs
    · simp [hl]
    · simp [hl] at h
  · obtain _ | ⟨b1, _ | ⟨b2, bs⟩⟩ := bs
    · simp [hl]
    · simp [hl]
    · simp [hl] at h; omega

/-- Settles O4: the decoder reads the bytes the length tells, into an instruction of the opcode byte's own row. -/
theorem everyOpcodeHasARow : Obligations.EveryOpcodeHasARow := by
  unfold Obligations.EveryOpcodeHasARow
  exact fun op bs => ⟨fun h => ⟨_, decode_cons_of_le h, decodeOpcode_opcodeOf op _ _⟩, decode_cons_of_lt⟩

/-! ### Encoding what was decoded -/

/-- The operand bytes of what is decoded are the bytes it was decoded from, as many as its length tells (R81): three
bytes make an address and give it back. -/
theorem operandBytes_decodeOpcode (op b1 b2 : Byte) :
    (decodeOpcode op b1 b2).operandBytes = [b1, b2].take (lengthOf op - 1) := by
  have row (n : Nat) (hn : n < 256) :
      (decodeOpcode (BitVec.ofNat 8 n) b1 b2).operandBytes =
        if lengthOf (BitVec.ofNat 8 n) = 3 then [loByte (cat b2 b1), hiByte (cat b2 b1)]
        else [b1].take (lengthOf (BitVec.ofNat 8 n) - 1) := by
    interval_cases n <;> rfl
  have hrow := row op.toNat op.isLt
  rcases lengthOf_cases op with hl | hl | hl <;> simpa [hl] using hrow

/-- At most two bytes are their first two, filled up with zeros. -/
theorem take_getD_eq {n : Nat} {bs : List Byte} (h : bs.length = n) (hn : n ≤ 2) :
    [bs.getD 0 0, bs.getD 1 0].take n = bs := by
  subst h
  match bs, hn with
  | [], _ => rfl
  | [_], _ => rfl
  | [_, _], _ => rfl

/-- Settles O2: the decoder's answer is of the opcode byte's own row, and its operand bytes are those read. -/
theorem encodeOfDecode : Obligations.EncodeOfDecode := by
  unfold Obligations.EncodeOfDecode
  intro bs i rest h
  obtain _ | ⟨op, bs⟩ := bs
  · cases h
  · by_cases hle : lengthOf op ≤ 1 + bs.length
    · rw [decode_cons_of_le hle] at h
      cases h
      have hop := decodeOpcode_opcodeOf op
        ((bs.take (lengthOf op - 1)).getD 0 0) ((bs.take (lengthOf op - 1)).getD 1 0)
      have hn : lengthOf op - 1 ≤ 2 := by
        have := lengthOf_cases op
        omega
      refine ⟨wellFormed_of_opcodeOf hop, ?_⟩
      rw [encode_of_opcodeOf hop, operandBytes_decodeOpcode,
        take_getD_eq (by simp only [List.length_take]; omega) hn, List.cons_append, List.take_append_drop]
    · rw [decode_cons_of_lt (by omega)] at h
      cases h

/-! ### Decoding what was encoded -/

/-- The mode of a format whose operand bytes are `b1` and `b2` (R81, R83). -/
def modeOfBytes (b1 b2 : Byte) : Format → Mode
  | .IMP => .imp
  | .ACC => .acc
  | .IMM => .imm b1
  | .ZP => .zp b1
  | .ZPX => .zpX b1
  | .ZPY => .zpY b1
  | .ABS => .abs (cat b2 b1)
  | .ABSX => .absX (cat b2 b1)
  | .ABSY => .absY (cat b2 b1)
  | .IND => .ind (cat b2 b1)
  | .IZX => .izx b1
  | .IZY => .izy b1
  | .REL => .rel b1

/-- A mode is the one its format and its bytes make. -/
theorem modeOfBytes_bytes (m : Mode) : modeOfBytes (m.bytes.getD 0 0) (m.bytes.getD 1 0) m.format = m := by
  cases m
  case abs | absX | absY | ind => simp [modeOfBytes, Mode.format, Mode.bytes]
  all_goals rfl

/-- The opcode byte of an undocumented NOP decodes to it, in the format whose list holds the byte (R320). -/
theorem decodeOpcode_undocNop {f : Format} {op : Byte} (h : op ∈ undocNopOpcodes f) (b1 b2 : Byte) :
    decodeOpcode op b1 b2 = .nopUndoc op (modeOfBytes b1 b2 f) := by
  cases f
  case ACC | ZPY | ABSY | IND | IZX | IZY | REL => exact absurd h List.not_mem_nil
  all_goals
    unfold undocNopOpcodes at h
    fin_cases h <;> rfl

/-- An ANC opcode byte decodes to ANC (R322). -/
theorem decodeOpcode_anc {op : Byte} (h : op ∈ ancOpcodes) (b1 b2 : Byte) : decodeOpcode op b1 b2 = .anc op b1 := by
  unfold ancOpcodes at h
  fin_cases h <;> rfl

/-- An instruction that carries its opcode byte has that byte's row, if its rule lists the byte (R311, R320, R322). -/
theorem eq_own_of_opcodeOf {i : Instr} {op own : Byte} {P : Bool} {f : Format}
    (hf : i.forms = if P then [(f, own)] else []) (h : i.opcodeOf = some op) : op = own ∧ P = true := by
  have hmem := opcodeOf_mem h
  rw [hf] at hmem
  cases P
  · exact absurd hmem List.not_mem_nil
  · exact ⟨congrArg Prod.snd (List.mem_singleton.mp hmem), rfl⟩

/-- An instruction whose operand is its mode: if the opcode byte of each of its forms decodes to the mode of that form,
its row decodes to it. -/
theorem decodeOpcode_of_forms (c : Mode → Instr) (m : Mode) {op : Byte} (h : (c m).opcodeOf = some op)
    (hm : (c m).mode = m)
    (hr : ∀ b1 b2, ∀ e ∈ (c m).forms, decodeOpcode e.2 b1 b2 = c (modeOfBytes b1 b2 e.1)) :
    decodeOpcode op (m.bytes.getD 0 0) (m.bytes.getD 1 0) = c m := by
  rw [hr _ _ _ (opcodeOf_mem h), hm, modeOfBytes_bytes]

/-- The row of an instruction decodes, with its operand bytes, to the instruction (R82, R83). -/
theorem decodeOpcode_operandBytes {i : Instr} {op : Byte} (h : i.opcodeOf = some op) :
    decodeOpcode op (i.operandBytes.getD 0 0) (i.operandBytes.getD 1 0) = i := by
  cases i
  case lda m | ldx m | ldy m | sta m | stx m | sty m | adc m | sbc m | and m | ora m | eor m | cmp m | cpx m | cpy m
      | bit m | inc m | dec m | asl m | lsr m | rol m | ror m | jmp m | slo m | isc m | rla m | sre m | rra m | dcp m
      | lax m | sax m | ahx m =>
    refine decodeOpcode_of_forms _ m h rfl fun b1 b2 e he => ?_
    simp only [Instr.forms] at he
    fin_cases he <;> rfl
  case nopUndoc own m =>
    obtain ⟨rfl, hop⟩ := eq_own_of_opcodeOf (P := (undocNopOpcodes m.format).contains own) rfl h
    have hd := decodeOpcode_undocNop (f := m.format) (by simpa using hop) (m.bytes.getD 0 0) (m.bytes.getD 1 0)
    rwa [modeOfBytes_bytes] at hd
  case kil own =>
    obtain ⟨rfl, hop⟩ := eq_own_of_opcodeOf (P := kilOpcodes.contains own) rfl h
    exact decodeOpcode_kil (by simpa using hop) _ _
  case anc own v =>
    obtain ⟨rfl, hop⟩ := eq_own_of_opcodeOf (P := ancOpcodes.contains own) rfl h
    exact decodeOpcode_anc (by simpa using hop) _ _
  case jsr w | las w | shy w | shx w | tas w =>
    cases h
    conv_rhs => rw [← cat_hiByte_loByte w]
    rfl
  all_goals
    cases h
    rfl

/-- Settles O1: the decoder reads the operand bytes of the instruction's row and answers the instruction of that row. -/
theorem decodeOfEncode : Obligations.DecodeOfEncode := by
  unfold Obligations.DecodeOfEncode
  intro i rest hw
  rw [wellFormed_eq_isSome] at hw
  obtain ⟨op, hop⟩ := Option.isSome_iff_exists.mp hw
  have hl : lengthOf op - 1 = i.operandBytes.length := by simp [lengthOf_of_opcodeOf hop]
  have hle : lengthOf op ≤ 1 + (i.operandBytes ++ rest).length := by
    simp only [lengthOf_of_opcodeOf hop, List.length_append]
    omega
  rw [encode_of_opcodeOf hop, List.cons_append, decode_cons_of_le hle, hl, List.take_left, List.drop_left,
    decodeOpcode_operandBytes hop]

/-- Settles O3: each word is closed data. -/
theorem wordsDecodeAsWritten : Obligations.WordsDecodeAsWritten := by
  unfold Obligations.WordsDecodeAsWritten
  decide

/-! ### Forms outside the populated rows -/

/-- A term that is no row is refused by name (R82, log entry 15). -/
theorem exec_noSuchForm {i : Instr} (h : i.opcodeOf = none) (s : State) : exec i s = .refused .noSuchForm := by
  obtain ⟨f, hf⟩ := exec_withRow i s
  simp [hf, withRow, h]

theorem unpopulatedFailure_eq (cfg : Config) (op : Byte) :
    unpopulatedFailure cfg op =
      if op ∈ cfg.illegalLabelled then Fault.illegalInstruction op else Fault.unemulatedInstruction op := by
  simp [unpopulatedFailure]

/-- Settles O9: every meaning is behind the check of its row. -/
theorem formsOutsideThePopulatedRows : Obligations.FormsOutsideThePopulatedRows := by
  unfold Obligations.FormsOutsideThePopulatedRows
  intro i s
  refine ⟨fun hw => exec_noSuchForm (opcodeOf_eq_none hw) s, fun op hop hp => ?_⟩
  rw [exec_unpopulated hop hp, raiseUnpopulated, unpopulatedFailure_eq]

end Sys2Proof.Machine
end

section
/-! The addressing modes (R101 to R116): the page-cross test, the resolvers with and without a pointer, and the one
read of an operand. -/

namespace Sys2Proof.Machine

/-! ### The page-cross test -/

theorem pageCross_eq_hiByte_xor (a b : Word) : pageCross a b = ((hiByte a).getLsbD 0 ^^ (hiByte b).getLsbD 0) := by
  simp [pageCross, hiByte]

/-- Bit 8 alone decides, because a high byte and its neighbours differ in their lowest bit (R114). -/
theorem pageCross_of_neighbour {a b : Word}
    (h : hiByte b = hiByte a ∨ hiByte b = hiByte a + 1 ∨ hiByte b = hiByte a - 1) :
    pageCross a b = decide (hiByte a ≠ hiByte b) := by
  have up : ∀ p : Byte, (p.getLsbD 0 ^^ (p + 1).getLsbD 0) = decide (p ≠ p + 1) := by decide
  have down : ∀ p : Byte, (p.getLsbD 0 ^^ (p - 1).getLsbD 0) = decide (p ≠ p - 1) := by decide
  rw [pageCross_eq_hiByte_xor]
  rcases h with h | h | h <;> rw [h]
  · simp
  · exact up _
  · exact down _

theorem sext16_toNat (v : Byte) : (sext16 v).toNat = if v.toNat < 128 then v.toNat else v.toNat + 0xFF00 := by
  have := v.isLt
  simp only [sext16, BitVec.toNat_signExtend, BitVec.toNat_setWidth, BitVec.msb_eq_decide, decide_eq_true_eq]
  split <;> split <;> omega

/-- An index moves the high byte by at most one, upward (R106, R107). -/
theorem hiByte_add_zext16 (w : Word) (k : Byte) :
    hiByte (w + zext16 k) = hiByte w ∨ hiByte (w + zext16 k) = hiByte w + 1 := by
  have := zext16_toNat k
  have := hiByte_toNat w
  have := hiByte_toNat (w + zext16 k)
  bv_omega

/-- A displacement moves the high byte by at most one, either way (R113). -/
theorem hiByte_add_sext16 (w : Word) (k : Byte) :
    hiByte (w + sext16 k) = hiByte w ∨ hiByte (w + sext16 k) = hiByte w + 1 ∨
      hiByte (w + sext16 k) = hiByte w - 1 := by
  have hk := sext16_toNat k
  have := hiByte_toNat w
  have := hiByte_toNat (w + sext16 k)
  split at hk <;> bv_omega

/-- Settles O30: an index or a displacement leaves the high byte or takes it to a neighbour. -/
theorem pageCrossIsAHighByteChange : Obligations.PageCrossIsAHighByteChange := by
  unfold Obligations.PageCrossIsAHighByteChange
  exact fun base k =>
    ⟨pageCross_of_neighbour ((hiByte_add_zext16 base k).imp_right .inl), pageCross_of_neighbour (hiByte_add_sext16 base k)⟩

/-! ### The resolvers that read no pointer -/

/-- The index wraps inside the zero page (R103, R104). -/
theorem zext16_add_toNat (a k : Byte) : (zext16 (a + k)).toNat = (a.toNat + k.toNat) % 256 := by
  rw [zext16_toNat, BitVec.toNat_add]

theorem Resolved.indexed_ea_toNat (w : Word) (k : Byte) :
    (Resolved.indexed w k).ea.toNat = (w.toNat + k.toNat) % 65536 := by
  simp [Resolved.indexed, BitVec.toNat_add, zext16_toNat]

/-- Settles O28: a resolver without a pointer answers in the state it is given. -/
theorem directModesResolve : Obligations.DirectModesResolve := by
  unfold Obligations.DirectModesResolve
  intro a w s
  refine ⟨⟨zext16_toNat a, rfl⟩, ⟨zext16_add_toNat a s.x, rfl⟩, ⟨zext16_add_toNat a s.y, rfl⟩, ⟨rfl, rfl⟩,
    ⟨Resolved.indexed_ea_toNat w s.x, rfl⟩, ⟨Resolved.indexed_ea_toNat w s.y, rfl⟩, ?_⟩
  intro m hm
  fin_cases hm <;> rfl

/-! ### The resolvers that read a pointer -/

/-- The address of the pointer's high byte, in the terms of the word its low byte stands at (R109, R119). -/
theorem zpNext_eq (wrap : Bool) (p : Byte) :
    zpNext wrap p = if zext16 p = 255 then (if wrap then 0 else 256) else zext16 p + 1 := by
  have h : zext16 p = 255 ↔ p = 0xFF := by
    have := zext16_toNat p
    bv_omega
  simp only [zpNext, h]

section
variable {s : State} (h : s.Full)
include h

theorem State.zpPointer_reads (p : Byte) :
    ∃ lo hi, (s.zpPointer p).1 = cat hi lo ∧
      (s.zpPointer p).2.bus =
        .read (if zext16 p = 255 then (if s.cfg.zpPointerWrap then 0 else 256) else zext16 p + 1) hi ::
          .read (zext16 p) lo :: s.bus := by
  refine ⟨_, _, rfl, ?_⟩
  rw [← zpNext_eq, ← State.busRead_bus h]
  exact State.busRead_bus (h.of_memSize (by simp)) _

theorem State.jmpPointer_reads (w : Word) :
    ∃ lo hi, (s.jmpPointer w).1 = cat hi lo ∧
      (s.jmpPointer w).2.bus =
        .read (if w.toNat % 256 = 255 then w - 255 else w + 1) hi :: .read w lo :: s.bus := by
  refine ⟨_, _, rfl, ?_⟩
  rw [← cat_next_in_page, ← State.busRead_bus h]
  exact State.busRead_bus (h.of_memSize (by simp)) _

/-- A resolver changes the bus record and the draws only. -/
theorem State.resolve_frame (m : Mode) :
    s.SameAXYS (s.resolve m).2 ∧ (s.resolve m).2.p = s.p ∧ (s.resolve m).2.pc = s.pc ∧ s.SameRun (s.resolve m).2 ∧
      s.SameMem (s.resolve m).2 :=
  ⟨by simp [State.SameAXYS, State.SameXYS], by simp, by simp, by simp [State.SameRun, State.resolve_fault h],
    State.peek_congr (by simp)⟩

end

/-- Settles O29: the two reads of each pointer, and the frame that holds of every mode. -/
theorem pointerModesResolve : Obligations.PointerModesResolve := by
  unfold Obligations.PointerModesResolve
  intro a w s h
  refine ⟨?_, ?_, ?_, fun m _ => State.resolve_frame h m⟩
  · obtain ⟨lo, hi, hw, hb⟩ := State.jmpPointer_reads h w
    exact ⟨lo, hi, hw, rfl, hb⟩
  · obtain ⟨lo, hi, hw, hb⟩ := State.zpPointer_reads h (a + s.x)
    exact ⟨lo, hi, _, zext16_add_toNat a s.x, hw, rfl, hb⟩
  · obtain ⟨lo, hi, hw, hb⟩ := State.zpPointer_reads h a
    refine ⟨lo, hi, _, zext16_toNat a, hw, ?_, ?_, hb⟩
    · rw [← hw]
      exact Resolved.indexed_ea_toNat _ s.y
    · rw [← hw]
      rfl

/-! ### The operand -/

/-- The operand of a format with an effective address is one read of it (R116). -/
theorem State.readOperand_of_memoryFormat {m : Mode} (h : m.format ∈ memoryFormats) (s : State) :
    s.readOperand m =
      ⟨((s.resolve m).2.busRead (s.resolve m).1.ea).1, (s.resolve m).1.crossed,
        ((s.resolve m).2.busRead (s.resolve m).1.ea).2⟩ := by
  cases m
  case imp | acc | imm => simp [Mode.format, memoryFormats] at h
  all_goals exact s.readOperand_memory (by simp) (by simp) (by simp)

/-- Settles O32: what one bus read records and answers, with the cells and handlers as before the resolver. -/
theorem operandIsOneRead : Obligations.OperandIsOneRead := by
  unfold Obligations.OperandIsOneRead
  refine fun m v s h => ⟨rfl, fun hm => ?_⟩
  rw [s.readOperand_of_memoryFormat hm]
  have hd := State.inDev_congr (s := s) (s.resolve_dev m) (s.resolve m).1.ea
  have hp := State.peek_congr (s := s) (s.resolve_mem m) (s.resolve m).1.ea
  exact ⟨rfl, State.busRead_bus (h.resolve m) _, fun hf => by simp [State.busRead_value, hd, hp, hf],
    fun ht => by simp [State.busRead_value, hd, ht]⟩

end Sys2Proof.Machine
end

section
/-! The executor (R130 to R144): the class of an opcode byte, what a step fetches and runs, and the host's calls, of
which `execute` is a run of steps below its deadline. -/

namespace Sys2Proof.Machine

/-! ### The class of an opcode byte -/

theorem populates_iff (cfg : Config) (op : Byte) :
    cfg.populates op = true ↔ op ∉ optionalOpcodes ∨ op ∈ cfg.undocPopulated := by
  simp [Config.populates]

/-- KIL is outside the optional set, so no parameter takes it out of the populated one (R85, R310). -/
theorem populates_of_kil (cfg : Config) {op : Byte} (h : op ∈ kilOpcodes) : cfg.populates op = true := by
  have hk : ∀ b ∈ kilOpcodes, optionalOpcodes.contains b = false := by decide
  exact populates_of_not_optional cfg (hk op h)

/-- The classes by KIL and by what is populated (R132, R133). -/
theorem classOf_iff (cfg : Config) (op : Byte) :
    (cfg.classOf op = .halt ↔ op ∈ kilOpcodes) ∧
    (cfg.classOf op = .populated ↔ op ∉ kilOpcodes ∧ cfg.populates op = true) ∧
    (cfg.classOf op = .unpopulated ↔ cfg.populates op = false) := by
  by_cases hk : op ∈ kilOpcodes
  · simp [Config.classOf, hk, populates_of_kil cfg hk]
  · cases hp : cfg.populates op <;> simp [Config.classOf, hk, hp]

/-- Settles O5: what is populated is the opcodes outside the optional set and those of it that the parameter names. -/
theorem opcodeClasses : Obligations.OpcodeClasses := by
  unfold Obligations.OpcodeClasses
  intro cfg op
  obtain ⟨hhalt, hpop, hunpop⟩ := classOf_iff cfg op
  rw [hhalt, hpop, hunpop, ← Bool.not_eq_true, populates_iff]
  tauto

/-! ### The fetch -/

/-- Everything a fetch of one byte does where every address has a cell (R11). -/
theorem State.fetch8_state {s : State} (h : s.Full) :
    s.fetch8.2 =
      { s with
        pc := s.pc + 1
        bus := .read s.pc (s.busRead s.pc).1 :: s.bus
        draws := (s.busRead s.pc).2.draws } := by
  unfold State.fetch8
  rw [State.busRead_state]
  simp [State.busRead_bus h, State.busRead_fault h, State.busRead_draws]

/-- A fetch at a plain address answers its cell and draws nothing (R56). -/
theorem State.fetch8_plain {s : State} (h : s.Full) (hd : s.inDev s.pc = false) :
    s.fetch8 = (s.peek s.pc, { s with pc := s.pc + 1, bus := .read s.pc (s.peek s.pc) :: s.bus }) := by
  refine Prod.ext (State.busRead_plain hd) ((State.fetch8_state h).trans ?_)
  simp [State.busRead_plain hd, State.busRead_draws, hd]

/-- The state after a fetch of `n` bytes, 3 at the most, at plain addresses from PC (R24, R56). -/
def State.fetched (s : State) (n : Nat) : State :=
  { s with
    pc := s.pc + BitVec.ofNat 16 n
    bus := ([BusEvent.read s.pc (s.peek s.pc), .read (s.pc + 1) (s.peek (s.pc + 1)),
      .read (s.pc + 2) (s.peek (s.pc + 2))].take n).reverse ++ s.bus }

theorem State.fetched_zero (s : State) : s.fetched 0 = s := by simp [State.fetched]

section
variable {s : State} (h : s.Full) (hp : s.Plain [s.pc, s.pc + 1, s.pc + 2])
include h hp

/-- The next byte fetched is that of the next cell. -/
theorem State.fetch8_fetched {n : Nat} (hn : n < 3) :
    (s.fetched n).fetch8 = (s.peek (s.pc + BitVec.ofNat 16 n), s.fetched (n + 1)) := by
  have hd : (s.fetched n).inDev (s.fetched n).pc = false := by
    refine (State.inDev_congr (s := s) rfl _).trans (hp _ ?_)
    interval_cases n <;> simp [State.fetched]
  rw [State.fetch8_plain (s := s.fetched n) (h.of_memSize rfl) hd]
  interval_cases n <;> simp [State.fetched, State.peek, BitVec.add_assoc]

/-- At plain addresses a fetch decodes the cells at PC, as many as the opcode byte tells (R80, R131). -/
theorem fetchInstr_plain (hc : s.cfg.classOf (s.peek s.pc) ≠ .unpopulated) {i : Instr} {rest : List Byte}
    (hi : decode [s.peek s.pc, s.peek (s.pc + 1), s.peek (s.pc + 2)] = .ok (i, rest)) :
    s.fetchInstr = (i, s.fetched (lengthOf (s.peek s.pc))) := by
  have h0 := State.fetch8_fetched h hp (n := 0) (by decide)
  have h1 := State.fetch8_fetched h hp (n := 1) (by decide)
  have h2 := State.fetch8_fetched h hp (n := 2) (by decide)
  simp only [State.fetched_zero, BitVec.add_zero] at h0
  have hg : (s.fetched 1).cfg = s.cfg := rfl
  have hl := lengthOf_cases (s.peek s.pc)
  rw [decode_cons_of_le (by simp; omega)] at hi
  cases hi
  simp only [State.fetchInstr, h0, hg, if_neg hc]
  rcases hl with hl | hl | hl
  · simp [hl]
  · simp [hl, h1]
  · simp [hl, h1, h2]

end

theorem fetchInstr_unpopulated {s : State} (h : s.cfg.classOf (s.busRead s.pc).1 = .unpopulated) :
    s.fetchInstr = (decodeOpcode (s.busRead s.pc).1 0 0, s.fetch8.2) := by
  have hop : s.fetch8.1 = (s.busRead s.pc).1 := rfl
  simp [State.fetchInstr, hop, h]

/-- What is fetched is an instruction of the opcode byte's own row (R84, R87). -/
theorem fetchInstr_opcodeOf (s : State) : s.fetchInstr.1.opcodeOf = some (s.busRead s.pc).1 := by
  obtain ⟨b1, b2, u, hi, -⟩ := fetchInstr_cases s
  rw [hi]
  exact decodeOpcode_opcodeOf _ b1 b2

/-! ### The step -/

/-- A fetch within the image is dispatched (R131). -/
theorem step_dispatches {s : State} (hr : s.halted = false) (hs : s.fault = none) (hf : s.fetchInstr.2.fault = none) :
    step s = exec s.fetchInstr.1 s.fetchInstr.2 := by
  simp [step_running hr hs, runFetched, hf]

/-- Settles O6: the bytes decoded are those fetched, and their number is the encoding's length. -/
theorem stepRunsTheDecodedInstruction : Obligations.StepRunsTheDecodedInstruction := by
  unfold Obligations.StepRunsTheDecodedInstruction
  intro s i rest hr hs hp hc hi
  have hf := fetchInstr_plain hs.2 hp hc hi
  have hop := fetchInstr_opcodeOf s
  rw [hf, State.busRead_plain (hp _ (by simp))] at hop
  have hl : (encode i).length = lengthOf (s.peek s.pc) := by
    rw [encode_of_opcodeOf hop, lengthOf_of_opcodeOf hop, List.length_cons]
  rw [step_dispatches hr hs.1 (by rw [hf]; exact hs.1), hf, hl]
  rfl

/-- Settles O7: the opcode byte alone is fetched, and its row is dispatched to the failure. -/
theorem stepRecordsAnUnpopulatedOpcode : Obligations.StepRecordsAnUnpopulatedOpcode := by
  unfold Obligations.StepRecordsAnUnpopulatedOpcode
  intro s hr hs hc
  have hf := fetchInstr_unpopulated hc
  obtain ⟨-, -, hunpop⟩ := classOf_iff s.cfg (s.busRead s.pc).1
  have hp : s.fetch8.2.cfg.populates (s.busRead s.pc).1 = false := by
    rw [State.fetch8_cfg, hunpop.mp hc]
  have hn : s.fetchInstr.2.fault = none := by
    rw [hf]
    exact (State.fetch8_fault hs.2).trans hs.1
  rw [step_dispatches hr hs.1 hn, hf, exec_unpopulated (decodeOpcode_opcodeOf _ 0 0) hp, raiseUnpopulated,
    unpopulatedFailure_eq, State.fetch8_state hs.2]

/-- An instruction of a row is not refused (R82). -/
theorem exec_ne_refused {i : Instr} {op : Byte} {s : State} (h : i.opcodeOf = some op) (hs : s.fault = none)
    (r : Refusal) : exec i s ≠ .refused r := by
  intro e
  cases hp : s.cfg.populates op with
  | false =>
    rw [exec_unpopulated h hp] at e
    cases e
  | true =>
    obtain ⟨hstop, hnext⟩ := exec_stops hp hs i h
    cases ha : (s.accesses i).find? s.beyond with
    | none =>
      obtain ⟨t, ht⟩ := hnext ha
      rw [ht] at e
      cases e
    | some a =>
      rw [hstop a ha] at e
      cases e

/-- No step is refused: what is fetched is a row (R84, R87). -/
theorem step_ne_refused (s : State) (r : Refusal) : step s ≠ .refused r := by
  unfold step runFetched
  split
  · nofun
  · split
    · nofun
    · split
      · nofun
      · next hn => exact exec_ne_refused (fetchInstr_opcodeOf s) hn r

/-- The counter never falls, under any table of base cycles (R34). -/
theorem step_cycles_le {s t : State} (h : step s = .next t) : s.cycles ≤ t.cycles := by
  rcases step_next_cases h with ⟨-, rfl⟩ | ⟨hr, -⟩
  · exact Nat.le_refl _
  · by_cases hk : (s.busRead s.pc).1 ∈ kilOpcodes
    · rw [step_kil_inv hr h hk]
      simp
    · obtain ⟨i, u, -, hc, -, ⟨f, rfl⟩ | ⟨op, n, -, u', -, rfl⟩, -⟩ := step_completed hr h hk
      · exact hc.ge
      · simp [hc]

/-! ### Runs below a deadline -/

theorem State.goesOn_iff {d : Nat} {s : State} : s.goesOn d = true ↔ s.cycles < d ∧ s.halted = false := by
  simp [State.goesOn]

theorem RunsBelow.cycles_le {d : Nat} {s t : State} (h : RunsBelow d s t) : s.cycles ≤ t.cycles := by
  induction h with
  | none => exact Nat.le_refl _
  | more _ _ _ hu _ ih => exact (step_cycles_le hu).trans ih

theorem RunsBelow.inv {d : Nat} {s t : State} (h : RunsBelow d s t) (hi : s.Inv) : t.Inv := by
  induction h with
  | none => exact hi
  | more _ _ _ hu _ ih => exact ih (stepKeepsTheInvariant _ _ hi hu)

theorem RunsBelow.memSize_eq {d : Nat} {s t : State} (h : RunsBelow d s t) : t.memSize = s.memSize := by
  induction h with
  | none => rfl
  | more _ _ _ hu _ ih =>
    obtain ⟨-, hm, -⟩ := stepKeepsHandlersAndParameters _ _ hu
    exact ih.trans hm

/-- A halted machine takes no step of a run. -/
theorem RunsBelow.running {d : Nat} {s t : State} (h : RunsBelow d s t) (ht : t.halted = false) : s.halted = false := by
  cases h with
  | none => exact ht
  | more _ hr _ _ _ => exact hr

/-! ### The loop of `execute` -/

/-- What a loop of at most `k` steps from `s` can answer: a state it has run to, with a failure recorded or one that it
does not go on from (R138, R141); the stop at an address beyond the image (R52); or the end of its bound, with a cycle
charged for each step under a base cycle table that R144 admits. -/
inductive LoopEnds (k d : Nat) (s : State) : Result → Prop where
  | next {t : State} (hrun : RunsBelow d s t) (hend : t.fault = none → t.goesOn d = false) : LoopEnds k d s (.next t)
  | outOfRange {t : State} {a : Word} (hrun : RunsBelow d s t) (ha : t.beyond a = true) :
      LoopEnds k d s (.fault (.busOutOfRange a))
  | bound {t : State} (hrun : RunsBelow d s t) (hg : t.goesOn d = true)
      (hk : s.cfg.wellFormed = true → s.cycles + k ≤ t.cycles) : LoopEnds k d s (.fault .budgetNotReached)

section
variable {k d : Nat} {s t : State}

/-- The loop takes no step from a state that is halted or has reached the deadline (R138). -/
theorem executeLoop_done (h : s.goesOn d = false) : executeLoop k d s = .next s := by
  cases k <;> simp [executeLoop, h]

theorem executeLoop_next (h : s.goesOn d = true) (hs : step s = .next t) :
    executeLoop (k + 1) d s = if t.fault.isSome then .next t else executeLoop k d t := by
  simp [executeLoop, h, hs]

theorem executeLoop_fault {f : Fault} (h : s.goesOn d = true) (hs : step s = .fault f) :
    executeLoop (k + 1) d s = .fault f := by
  simp [executeLoop, h, hs]

theorem LoopEnds.done (h : s.goesOn d = false) : LoopEnds k d s (executeLoop k d s) := by
  rw [executeLoop_done h]
  exact .next (.none s) fun _ => h

/-- A step in front of a loop; a running machine's step to a running one charges a cycle (R144). -/
theorem LoopEnds.more {r : Result} (hg : s.goesOn d = true) (hs : s.fault = none) (hu : step s = .next t)
    (ht : t.fault = none) (h : LoopEnds k d t r) : LoopEnds (k + 1) d s r := by
  obtain ⟨hd, hr⟩ := State.goesOn_iff.mp hg
  cases h with
  | next hrun hend => exact .next (.more hd hr hs hu hrun) hend
  | outOfRange hrun ha => exact .outOfRange (.more hd hr hs hu hrun) ha
  | bound hrun hg' hk =>
    refine .bound (.more hd hr hs hu hrun) hg' fun hw => ?_
    obtain ⟨-, -, hcfg⟩ := stepKeepsHandlersAndParameters s t hu
    have hrest := hk (by rw [hcfg]; exact hw)
    have htr := hrun.running (State.goesOn_iff.mp hg').2
    have hcharge := (everyInstructionChargesTwoCycles s t hw hu).2 hr htr ht
    omega

end

/-- The loop ends in one of the three ways, by induction on its bound. -/
theorem executeLoop_ends {k d : Nat} {s : State} (hs : s.fault = none) : LoopEnds k d s (executeLoop k d s) := by
  induction k generalizing s with
  | zero =>
    cases hg : s.goesOn d with
    | false => exact .done hg
    | true =>
      simp only [executeLoop, hg, if_true]
      exact .bound (.none s) hg fun _ => Nat.le_refl _
  | succ k ih =>
    cases hg : s.goesOn d with
    | false => exact .done hg
    | true =>
      cases hu : step s with
      | fault f =>
        obtain ⟨a, rfl, ha⟩ := step_fault_inv (State.goesOn_iff.mp hg).2 hs hu
        rw [executeLoop_fault hg hu]
        exact .outOfRange (.none s) ha
      | refused r => exact absurd hu (step_ne_refused s r)
      | next u =>
        rw [executeLoop_next hg hu]
        cases hf : u.fault with
        | none => exact (ih hf).more hg hs hu hf
        | some f =>
          obtain ⟨hd, hr⟩ := State.goesOn_iff.mp hg
          exact .next (.more hd hr hs hu (.none u)) fun e => by rw [hf] at e; cases e

/-- What the loop answers next, it has run to. -/
theorem executeLoop_inv {k d : Nat} {s t : State} (hs : s.fault = none) (h : executeLoop k d s = .next t) :
    RunsBelow d s t ∧ (t.fault = none → t.goesOn d = false) := by
  have he := executeLoop_ends (k := k) (d := d) hs
  rw [h] at he
  cases he with
  | next hrun hend => exact ⟨hrun, hend⟩

/-- A bound of the cycles left to the deadline never ends the loop (R144, log entry 14). -/
theorem executeLoop_ne_budgetNotReached {n : Nat} {s : State} (hw : s.cfg.wellFormed = true) (hs : s.fault = none) :
    executeLoop n (s.cycles + n) s ≠ .fault .budgetNotReached := by
  intro h
  have he := executeLoop_ends (k := n) (d := s.cycles + n) hs
  rw [h] at he
  cases he with
  | bound hrun hg hk =>
    have hd := (State.goesOn_iff.mp hg).1
    have hk := hk hw
    omega

/-- So with a cell for every address the loop ends in a state. -/
theorem executeLoop_answers {n : Nat} {s : State} (hw : s.cfg.wellFormed = true) (hs : s.fault = none) (hf : s.Full) :
    ∃ t, executeLoop n (s.cycles + n) s = .next t := by
  have hb := executeLoop_ne_budgetNotReached (n := n) hw hs
  have he := executeLoop_ends (k := n) (d := s.cycles + n) hs
  generalize executeLoop n (s.cycles + n) s = r at hb he
  cases he with
  | next => exact ⟨_, rfl⟩
  | bound => exact absurd rfl hb
  | @outOfRange t a hrun ha =>
    have hlt := (hf.of_memSize hrun.memSize_eq).lt a
    have hle := (State.beyond_iff.mp ha).2
    omega

/-! ### `execute` -/

theorem executeCall_halted {s : State} (h : s.halted = true) (n : Nat) : executeCall n s = .next (s, some 0) := by
  simp [executeCall, h]

theorem executeCall_faulted {s : State} {f : Fault} (hr : s.halted = false) (hf : s.fault = some f) (n : Nat) :
    executeCall n s = .fault f := by
  simp [executeCall, hr, hf]

section
variable {n : Nat} {s : State} (hr : s.halted = false) (hs : s.fault = none)
include hr hs

theorem executeCall_next_iff {t : State} {r : Option Nat} :
    executeCall n s = .next (t, r) ↔
      executeLoop n (s.cycles + n) s = .next t ∧ r = if t.fault = none then some (t.cycles - s.cycles) else none := by
  simp only [executeCall, hr, hs]
  cases executeLoop n (s.cycles + n) s with
  | fault f => simp
  | refused r => simp
  | next u =>
    have hu : (if u.fault.isSome then none else some (u.cycles - s.cycles)) =
        if u.fault = none then some (u.cycles - s.cycles) else none := by
      cases u.fault <;> simp
    simp only [Bool.false_eq_true, if_false, hu, Host.Outcome.next.injEq, Prod.mk.injEq]
    constructor <;>
      · rintro ⟨rfl, rfl⟩
        exact ⟨rfl, rfl⟩

theorem executeCall_fault_iff {f : Fault} :
    executeCall n s = .fault f ↔ executeLoop n (s.cycles + n) s = .fault f := by
  simp only [executeCall, hr, hs]
  cases executeLoop n (s.cycles + n) s <;> simp

end

/-- Settles O8: both ask the run state first, then the record. -/
theorem noStepWhenHaltedOrFaulted : Obligations.NoStepWhenHaltedOrFaulted := by
  unfold Obligations.NoStepWhenHaltedOrFaulted
  exact fun s => ⟨fun h => ⟨step_halted h, executeCall_halted h⟩,
    fun _ hr hf => ⟨step_faulted hr hf, executeCall_faulted hr hf⟩⟩

/-- Settles O57: its loop is a run below the deadline, and every step of it charges at least the cycle it is given. -/
theorem executeRunsToItsDeadline : Obligations.ExecuteRunsToItsDeadline := by
  unfold Obligations.ExecuteRunsToItsDeadline
  intro n s hr hs
  refine ⟨fun t r h => ?_, ?_, fun hw h => ?_, fun hw hfull => ?_⟩
  · obtain ⟨hl, hret⟩ := (executeCall_next_iff hr hs).mp h
    obtain ⟨hrun, hend⟩ := executeLoop_inv hs hl
    refine ⟨hrun, hrun.cycles_le, hret, fun hf => ?_⟩
    have hg : ¬ (t.cycles < s.cycles + n ∧ t.halted = false) := by
      rw [← State.goesOn_iff, hend hf]
      decide
    cases hh : t.halted with
    | true => exact .inl rfl
    | false => exact .inr (Nat.le_of_not_lt fun hlt => hg ⟨hlt, hh⟩)
  · rintro rfl
    exact (executeCall_next_iff hr hs).mpr ⟨executeLoop_done (by simp [State.goesOn]), by simp [hs]⟩
  · exact executeLoop_ne_budgetNotReached hw hs ((executeCall_fault_iff hr hs).mp h)
  · obtain ⟨t, e⟩ := executeLoop_answers (n := n) hw hs hfull
    exact ⟨t, _, (executeCall_next_iff hr hs).mpr ⟨e, rfl⟩⟩

/-! ### The calls and the invariant -/

theorem commit_ne_outOfRange {s t : State} (h : commit s = .next t) (a : Word) :
    t.fault ≠ some (.busOutOfRange a) := by
  intro hf
  rw [commit_inv h] at hf
  simp [commit, hf] at h

/-- What keeps the parts and then ends in a next state keeps the invariant. -/
theorem commit_inv_of_kept {s u t : State} (hi : s.Inv) (h : commit u = .next t) (hk : Kept s u) : t.Inv := by
  have hb := commit_ne_outOfRange h
  rw [commit_inv h] at hb ⊢
  exact hk.inv hb hi

theorem takeInterrupt_inv {s t : State} {v : Word} (hi : s.Inv) (h : takeInterrupt v s = .next t) : t.Inv := by
  unfold takeInterrupt at h
  have hk := kept_interruptEntry v s.statusByte s
  generalize s.interruptEntry v s.statusByte = u at h hk
  exact commit_inv_of_kept hi h (hk.trans (.of_eq rfl rfl rfl rfl rfl rfl))

theorem irqCall_inv {s t : State} (hi : s.Inv) (h : irqCall s = .next t) : t.Inv := by
  unfold irqCall at h
  split at h
  · cases h; exact hi
  · exact takeInterrupt_inv hi h

theorem nmiCall_inv {s t : State} (hi : s.Inv) (h : nmiCall s = .next t) : t.Inv := by
  unfold nmiCall at h
  split at h
  · cases h; exact hi
  · exact takeInterrupt_inv hi h

/-- A call that ends by taking PC from a vector keeps the invariant of the state it reads the vector in. -/
theorem commit_readWord_inv {s t : State} {v : Word}
    (h : commit { (s.readWord v).2 with pc := (s.readWord v).1 } = .next t) (hi : s.Inv) : t.Inv :=
  commit_inv_of_kept hi h ((kept_readWord v s).trans (.of_eq rfl rfl rfl rfl rfl rfl))

/-- The state `reset()` reads the vector in has memory and handlers as they were, and neither a failure nor the halted
state (R410). -/
theorem resetCall_inv {s t : State} (hi : s.Inv) (h : resetCall s = .next t) : t.Inv := by
  obtain ⟨hm, hd, -, -⟩ := hi
  exact commit_readWord_inv h ⟨hm, hd, trivial, fun _ => rfl⟩

theorem loadImage_inv {s : State} (hi : s.Inv) (image : List Byte) : (loadImage image s).Inv := by
  obtain ⟨-, -, hf, hh⟩ := hi
  exact ⟨Memory.ofBytes_wf image, rfl, hf, hh⟩

theorem installReadHandler_inv {s : State} (hi : s.Inv) (a : Word) : (installReadHandler a s).Inv := by
  obtain ⟨hm, hd, hf, hh⟩ := hi
  exact ⟨hm, devInsert_wf a.isLt hd, hf, hh⟩

theorem executeCall_inv {s t : State} {n : Nat} {r : Option Nat} (hi : s.Inv) (h : executeCall n s = .next (t, r)) :
    t.Inv := by
  cases hr : s.halted with
  | true =>
    rw [executeCall_halted hr] at h
    cases h
    exact hi
  | false =>
    cases hs : s.fault with
    | some f => rw [executeCall_faulted hr hs] at h; cases h
    | none =>
      obtain ⟨hl, -⟩ := (executeCall_next_iff hr hs).mp h
      obtain ⟨hrun, -⟩ := executeLoop_inv hs hl
      exact hrun.inv hi

/-- Settles O16, one call after the other; the write handler is installed as the read handler is. -/
theorem hostCallsKeepTheInvariant : Obligations.HostCallsKeepTheInvariant := by
  unfold Obligations.HostCallsKeepTheInvariant
  exact fun s t hi => ⟨loadImage_inv hi, fun a => ⟨installReadHandler_inv hi a, installReadHandler_inv hi a⟩,
    fun _ => hi, resetCall_inv hi, irqCall_inv hi, nmiCall_inv hi, fun _ _ => executeCall_inv hi⟩

end Sys2Proof.Machine
end

section
/-! Loads, stores and register transfers (R150 to R161): what an instruction that writes registers and flags leaves in
them, after the read of its operand or with no bus event, and the twelve instructions. -/

namespace Sys2Proof.Machine

/-! ### An instruction that writes registers and flags only -/

/-- The read of an operand leaves its bus events and draws, and nothing else where every address has a cell (R116). -/
theorem State.readOperand_st {s : State} (h : s.Full) (m : Mode) :
    (s.readOperand m).st = { s with bus := (s.readOperand m).st.bus, draws := (s.readOperand m).st.draws } := by
  -- the left side, field by field
  change State.mk _ _ _ _ _ _ _ _ _ _ _ _ _ _ _ = _
  simp [State.readOperand_fault h]

section
variable {i : Instr} {op : Byte} {s : State} (h : i.opcodeOf = some op) (hp : s.cfg.populates op = true)
include h hp

/-- A read-class instruction that writes registers and flags: its `f` works on those of the state before the read. -/
theorem readClass_registers (m : Mode) (f : Byte → State → State) (hr : s.Ready)
    (hf : ∀ v u, f v u = { u with a := (f v u).a, x := (f v u).x, y := (f v u).y, sp := (f v u).sp, p := (f v u).p }) :
    ∃ t, readClass i m f s = .next t ∧ s.AfterRead t m op ∧
      let u := f (s.readOperand m).value
        { s with bus := (s.readOperand m).st.bus, draws := (s.readOperand m).st.draws }
      t.a = u.a ∧ t.x = u.x ∧ t.y = u.y ∧ t.sp = u.sp ∧ t.p = u.p := by
  rw [← State.readOperand_st hr.2]
  exact readClass_after h hp m f hr hf

/-- An implied instruction whose `f` writes only A, X, Y, SP and flags. -/
theorem impliedClass_after (f : State → State) (hr : s.Ready)
    (hf : f s = { s with a := (f s).a, x := (f s).x, y := (f s).y, sp := (f s).sp, p := (f s).p }) :
    ∃ t, impliedClass i f s = .next t ∧ s.AfterImplied t op ∧
      t.a = (f s).a ∧ t.x = (f s).x ∧ t.y = (f s).y ∧ t.sp = (f s).sp ∧ t.p = (f s).p := by
  refine ⟨_, impliedClass_next h hp f (by rw [hf, hr.1]), ?_, rfl, rfl, rfl, rfl, rfl⟩
  rw [hf]
  exact ⟨rfl, rfl, rfl, rfl, ⟨rfl, rfl, rfl, rfl, rfl⟩, fun _ => rfl⟩

/-! A load of one register with the byte `r` of the state: N and Z are of it, and the other registers stay. -/

theorem impliedClass_loadA (r : State → Byte) (hr : s.Ready) :
    ∃ t, impliedClass i (fun u => u.loadA (r u)) s = .next t ∧ t.a = r s ∧ s.SameXYS t ∧ t.p = s.p.setNZ (r s) ∧
      s.AfterImplied t op := by
  obtain ⟨t, ht, hafter, ha, hx, hy, hsp, hflags⟩ := impliedClass_after h hp (fun u => u.loadA (r u)) hr rfl
  exact ⟨t, ht, ha, ⟨hx, hy, hsp⟩, hflags, hafter⟩

theorem impliedClass_loadX (r : State → Byte) (hr : s.Ready) :
    ∃ t, impliedClass i (fun u => u.loadX (r u)) s = .next t ∧ t.x = r s ∧ t.a = s.a ∧ t.y = s.y ∧ t.sp = s.sp ∧
      t.p = s.p.setNZ (r s) ∧ s.AfterImplied t op := by
  obtain ⟨t, ht, hafter, ha, hx, hy, hsp, hflags⟩ := impliedClass_after h hp (fun u => u.loadX (r u)) hr rfl
  exact ⟨t, ht, hx, ha, hy, hsp, hflags, hafter⟩

theorem impliedClass_loadY (r : State → Byte) (hr : s.Ready) :
    ∃ t, impliedClass i (fun u => u.loadY (r u)) s = .next t ∧ t.y = r s ∧ t.a = s.a ∧ t.x = s.x ∧ t.sp = s.sp ∧
      t.p = s.p.setNZ (r s) ∧ s.AfterImplied t op := by
  obtain ⟨t, ht, hafter, ha, hx, hy, hsp, hflags⟩ := impliedClass_after h hp (fun u => u.loadY (r u)) hr rfl
  exact ⟨t, ht, hy, ha, hx, hsp, hflags, hafter⟩

end

/-! ### Loads -/

/-- Settles O31: each load is a read-class instruction whose register and flags the operand decides. -/
theorem loadsComplete : Obligations.LoadsComplete := by
  unfold Obligations.LoadsComplete
  refine ⟨fun m => ⟨rfl, rfl, rfl⟩, fun m op s hr => ⟨fun h => ?lda, fun h => ?ldx, fun h => ?ldy⟩⟩
  case lda =>
    obtain ⟨t, ht, hafter, ha, hx, hy, hsp, hflags⟩ :=
      readClass_registers h (populates_of_forms s.cfg h rfl) m (fun v u => u.loadA v) hr fun _ _ => rfl
    exact ⟨t, ht, ha, ⟨hx, hy, hsp⟩, hflags, hafter⟩
  case ldx =>
    obtain ⟨t, ht, hafter, ha, hx, hy, hsp, hflags⟩ :=
      readClass_registers h (populates_of_forms s.cfg h rfl) m (fun v u => u.loadX v) hr fun _ _ => rfl
    exact ⟨t, ht, hx, ha, hy, hsp, hflags, hafter⟩
  case ldy =>
    obtain ⟨t, ht, hafter, ha, hx, hy, hsp, hflags⟩ :=
      readClass_registers h (populates_of_forms s.cfg h rfl) m (fun v u => u.loadY v) hr fun _ _ => rfl
    exact ⟨t, ht, hy, ha, hx, hsp, hflags, hafter⟩

/-! ### Stores -/

/-- Settles O33: each store is a store-class instruction, of the register it names. -/
theorem storesComplete : Obligations.StoresComplete := by
  unfold Obligations.StoresComplete
  refine ⟨fun m => ⟨rfl, rfl, rfl⟩, fun m op s hr hw => ⟨fun h => ?sta, fun h => ?stx, fun h => ?sty⟩⟩
  case sta => exact storeClass_after h (populates_of_forms s.cfg h rfl) m (fun t => t.a) hr hw
  case stx => exact storeClass_after h (populates_of_forms s.cfg h rfl) m (fun t => t.x) hr hw
  case sty => exact storeClass_after h (populates_of_forms s.cfg h rfl) m (fun t => t.y) hr hw

/-! ### Transfers -/

/-- Settles O34: a transfer loads its destination from its source and reads no bus; TXS alone loads SP. -/
theorem transfersComplete : Obligations.TransfersComplete := by
  unfold Obligations.TransfersComplete
  refine fun op s hr => ⟨fun h => ⟨(Option.some.inj h).symm, ?tax⟩, fun h => ⟨(Option.some.inj h).symm, ?tay⟩,
    fun h => ⟨(Option.some.inj h).symm, ?txa⟩, fun h => ⟨(Option.some.inj h).symm, ?tya⟩,
    fun h => ⟨(Option.some.inj h).symm, ?tsx⟩, fun h => ⟨(Option.some.inj h).symm, ?txs⟩⟩
  case tax => exact impliedClass_loadX h (populates_of_forms s.cfg h rfl) (fun u => u.a) hr
  case tay => exact impliedClass_loadY h (populates_of_forms s.cfg h rfl) (fun u => u.a) hr
  case txa => exact impliedClass_loadA h (populates_of_forms s.cfg h rfl) (fun u => u.x) hr
  case tya => exact impliedClass_loadA h (populates_of_forms s.cfg h rfl) (fun u => u.y) hr
  case tsx => exact impliedClass_loadX h (populates_of_forms s.cfg h rfl) (fun u => u.sp) hr
  case txs =>
    obtain ⟨t, ht, hafter, ha, hx, hy, hsp, hflags⟩ :=
      impliedClass_after h (populates_of_forms s.cfg h rfl) (fun u => { u with sp := u.x }) hr rfl
    exact ⟨t, ht, hsp, ha, hx, hy, hflags, hafter⟩

end Sys2Proof.Machine
end

section
/-! Arithmetic, logic, compares, increments and decrements (R180 to R198): the arithmetic cores on exact integers, what
a read-modify-write of memory leaves in the registers, and the instructions. -/

namespace Sys2Proof.Machine

/-! ### A byte, unsigned and signed -/

section
variable (b : Byte)

/-- Bit 7 is the sign of the byte. -/
theorem Byte.getLsbD_seven : b.getLsbD 7 = decide (128 ≤ b.toNat) :=
  b.msb_eq_getLsbD_last.symm.trans b.msb_eq_decide

theorem Byte.toInt_cases : b.toNat < 128 ∧ b.toInt = b.toNat ∨ 128 ≤ b.toNat ∧ b.toInt = b.toNat - 256 := by
  rw [BitVec.toInt_eq_toNat_cond]
  split <;> omega

theorem Byte.toNat_add_one : (b + 1).toNat = (b.toNat + 1) % 256 := BitVec.toNat_add b 1

theorem Byte.toNat_sub_one : (b - 1).toNat = (b.toNat + 255) % 256 := by
  rw [Nat.add_comm]
  exact BitVec.toNat_sub b 1

theorem Byte.toNat_xor_ones : (b ^^^ 0xFF).toNat = 255 - b.toNat := by
  rw [show b ^^^ 0xFF = ~~~b from BitVec.xor_allOnes, BitVec.toNat_not]

theorem Byte.getLsbD_seven_xor_ones : (b ^^^ 0xFF).getLsbD 7 = !b.getLsbD 7 :=
  (BitVec.getLsbD_xor ..).trans (Bool.xor_true _)

end

/-! ### Addition (R180) -/

section
variable (a m : Byte) (c : Bool) (p : Flags)

theorem addResult_toNat : (addResult a m c).toNat = addSum a m c % 256 := BitVec.toNat_ofNat ..

/-- V of an addition: the operands have like sign and the result the other. -/
theorem afterAdd_v :
    (p.afterAdd a m).v =
      ((a.getLsbD 7 == m.getLsbD 7) && ((addResult a m p.c).getLsbD 7 != a.getLsbD 7)) := by
  simp only [Flags.afterAdd, BitVec.getLsbD_and, BitVec.getLsbD_not, BitVec.getLsbD_xor]
  cases a.getLsbD 7 <;> cases m.getLsbD 7 <;> simp

/-- V of an addition: the signed sum does not fit in a byte (R198). -/
theorem afterAdd_v_signed :
    (p.afterAdd a m).v =
      decide (a.toInt + m.toInt + p.c.toNat < -128 ∨ 127 < a.toInt + m.toInt + p.c.toNat) := by
  have hc := p.c.toNat_le
  have ha := Byte.toInt_cases a
  have hm := Byte.toInt_cases m
  rw [afterAdd_v, Bool.eq_iff_iff]
  simp only [Byte.getLsbD_seven, addResult_toNat, addSum, Bool.and_eq_true, beq_iff_eq, bne_iff_ne, ne_eq,
    decide_eq_decide, decide_eq_true_eq]
  omega

end

/-- What `AddCore` leaves is the sum of the statements, with the carry it is given (R180). -/
theorem State.added_of_afterAdd {s t : State} {v : Byte} {c : Bool} (ha : t.a = addResult s.a v c)
    (hp : t.p = Flags.afterAdd s.a v { s.p with c := c }) : s.Added t v c := by
  refine ⟨by rw [ha, addResult_toNat]; rfl, ?_⟩
  have hv := afterAdd_v s.a v { s.p with c := c }
  rw [hp, ha, ← hv]
  rfl

/-! ### Subtraction (R181) and comparison (R182) -/

section
variable (a m : Byte) (c : Bool) (p : Flags)

theorem subResult_toNat : ((subResult a m c).toNat : Int) = subDiff a m c % 256 := by
  rw [subResult, BitVec.toNat_ofInt]
  omega

/-- The difference is the sum with the complement, less 256. -/
theorem subDiff_eq_addSum : subDiff a m c = addSum a (m ^^^ 0xFF) c - 256 := by
  have hm := m.isLt
  simp only [subDiff, addSum, Byte.toNat_xor_ones]
  omega

/-- Subtracting is adding the complement: the same result (R198). -/
theorem subResult_eq_addResult : subResult a m c = addResult a (m ^^^ 0xFF) c := by
  apply BitVec.eq_of_toNat_eq
  have hs := subResult_toNat a m c
  rw [subDiff_eq_addSum] at hs
  rw [addResult_toNat]
  omega

/-- V of a subtraction: the operands have unlike sign and the result's differs from the first one's. -/
theorem afterSub_v :
    (p.afterSub a m).v =
      ((a.getLsbD 7 != m.getLsbD 7) && ((subResult a m p.c).getLsbD 7 != a.getLsbD 7)) := by
  simp only [Flags.afterSub, BitVec.getLsbD_and, BitVec.getLsbD_xor]
  cases a.getLsbD 7 <;> cases m.getLsbD 7 <;> simp

/-- Subtracting is adding the complement: the same flags (R198). -/
theorem afterSub_eq_afterAdd : p.afterSub a m = p.afterAdd a (m ^^^ 0xFF) := by
  have hv : (p.afterSub a m).v = (p.afterAdd a (m ^^^ 0xFF)).v := by
    rw [afterSub_v, afterAdd_v, subResult_eq_addResult, Byte.getLsbD_seven_xor_ones]
    cases a.getLsbD 7 <;> cases m.getLsbD 7 <;> rfl
  have hc : decide (0 ≤ subDiff a m p.c) = decide (256 ≤ addSum a (m ^^^ 0xFF) p.c) := by
    rw [decide_eq_decide, subDiff_eq_addSum]
    omega
  simp only [Flags.afterSub, Flags.afterAdd] at hv ⊢
  rw [hv, hc, subResult_eq_addResult]

/-- V of a subtraction: the signed difference does not fit in a byte (R198). -/
theorem afterSub_v_signed :
    (p.afterSub a m).v =
      decide (a.toInt - m.toInt - (1 - p.c.toNat) < -128 ∨ 127 < a.toInt - m.toInt - (1 - p.c.toNat)) := by
  have hm : (m ^^^ 0xFF).toInt = -m.toInt - 1 := by
    have h := Byte.toInt_cases m
    have h' := Byte.toInt_cases (m ^^^ 0xFF)
    rw [Byte.toNat_xor_ones] at h'
    omega
  rw [afterSub_eq_afterAdd, afterAdd_v_signed, hm, decide_eq_decide]
  omega

/-- With C set no borrow comes in, and the result is the difference of bytes. -/
theorem subResult_no_borrow : subResult a m true = a - m := by
  apply BitVec.eq_of_toNat_eq
  have hs := subResult_toNat a m true
  simp only [subDiff, Bool.toNat_true] at hs
  rw [BitVec.toNat_sub]
  omega

/-- A compare: C tells that the register is not below the operand, Z that they are equal, N is bit 7 of the
difference (R182). -/
theorem afterCompare_eq :
    p.afterCompare a m =
      { p with c := decide (m.toNat ≤ a.toNat), z := decide (a = m), n := (a - m).getLsbD 7 } := by
  have hc : 0 ≤ subDiff a m true ↔ m.toNat ≤ a.toNat := by
    simp only [subDiff, Bool.toNat_true]
    omega
  have hz : a - m = 0 ↔ a = m := sub_eq_zero
  simp only [Flags.afterCompare, Flags.setNZ, subResult_no_borrow, hc, hz]

end

/-- What `SubCore` leaves is the difference of the statements (R181). -/
theorem State.subtracted_of_afterSub {s t : State} {v : Byte} (ha : t.a = subResult s.a v s.p.c)
    (hp : t.p = s.p.afterSub s.a v) : s.Subtracted t v := by
  refine ⟨by rw [ha, subResult_toNat]; rfl, ?_⟩
  have hv := afterSub_v s.a v s.p
  rw [hp, ha, ← hv]
  rfl

/-- Settles O37: the signs of the operands and the result decide V, and the difference is the sum with the
complement. -/
theorem overflowIsSignedAndSubIsAddOfComplement : Obligations.OverflowIsSignedAndSubIsAddOfComplement := by
  unfold Obligations.OverflowIsSignedAndSubIsAddOfComplement
  refine fun m s => ⟨afterAdd_v_signed s.a m s.p, afterSub_v_signed s.a m s.p, ?_⟩
  simp only [State.subCore, State.addCore, subResult_eq_addResult, afterSub_eq_afterAdd]

/-! ### Addition and subtraction of an operand -/

/-- Settles O35: ADC reads its operand and runs `AddCore` on it. -/
theorem adcCompletes : Obligations.AdcCompletes := by
  unfold Obligations.AdcCompletes
  refine ⟨fun m => rfl, fun m op s h hr => ?_⟩
  obtain ⟨t, ht, hafter, ha, hx, hy, hsp, hflags⟩ :=
    readClass_registers h (populates_of_forms s.cfg h rfl) m (fun v u => u.addCore v) hr fun _ _ => rfl
  exact ⟨t, ht, State.added_of_afterAdd ha hflags, ⟨hx, hy, hsp⟩, hafter⟩

/-- Settles O36: SBC reads its operand and runs `SubCore` on it. -/
theorem sbcCompletes : Obligations.SbcCompletes := by
  unfold Obligations.SbcCompletes
  refine ⟨fun m => rfl, fun m op s h hr => ?_⟩
  obtain ⟨t, ht, hafter, ha, hx, hy, hsp, hflags⟩ :=
    readClass_registers h (populates_of_forms s.cfg h rfl) m (fun v u => u.subCore v) hr fun _ _ => rfl
  exact ⟨t, ht, State.subtracted_of_afterSub ha hflags, ⟨hx, hy, hsp⟩, hafter⟩

/-! ### Logic, compares and BIT -/

section
variable {i : Instr} {op : Byte} {s : State} (h : i.opcodeOf = some op) (hp : s.cfg.populates op = true)
include h hp

/-- A read-class instruction that loads A with an operation of A and the operand. -/
theorem readClass_loadA (m : Mode) (g : Byte → Byte → Byte) (hr : s.Ready) :
    ∃ t, readClass i m (fun v u => u.loadA (g u.a v)) s = .next t ∧ t.a = g s.a (s.readOperand m).value ∧
      s.SameXYS t ∧ t.p = { s.p with n := t.a.getLsbD 7, z := decide (t.a = 0) } ∧ s.AfterRead t m op := by
  obtain ⟨t, ht, hafter, ha, hx, hy, hsp, hflags⟩ :=
    readClass_registers h hp m (fun v u => u.loadA (g u.a v)) hr fun _ _ => rfl
  exact ⟨t, ht, ha, ⟨hx, hy, hsp⟩, by rw [hflags, ha]; rfl, hafter⟩

/-- A read-class instruction that compares the register `r` with the operand. -/
theorem readClass_compare (m : Mode) (r : State → Byte) (hr : s.Ready)
    (hreg : ∀ bus draws, r { s with bus := bus, draws := draws } = r s) :
    let v := (s.readOperand m).value
    ∃ t, readClass i m (fun v u => u.compare (r u) v) s = .next t ∧ s.SameAXYS t ∧ s.AfterRead t m op ∧
      t.p = { s.p with c := decide (v.toNat ≤ (r s).toNat), z := decide (r s = v), n := (r s - v).getLsbD 7 } := by
  obtain ⟨t, ht, hafter, ha, hx, hy, hsp, hflags⟩ :=
    readClass_registers h hp m (fun v u => u.compare (r u) v) hr fun _ _ => rfl
  refine ⟨t, ht, ⟨ha, hx, hy, hsp⟩, hafter, ?_⟩
  rw [hflags, State.compare_p, hreg, afterCompare_eq]

end

/-- Settles O38: each of the three loads A with its bitwise operation. -/
theorem logicCompletes : Obligations.LogicCompletes := by
  unfold Obligations.LogicCompletes
  refine ⟨fun m => ⟨rfl, rfl, rfl⟩, fun m op s hr => ⟨fun h => ?and, fun h => ?ora, fun h => ?eor⟩⟩
  case and => exact readClass_loadA h (populates_of_forms s.cfg h rfl) m (· &&& ·) hr
  case ora => exact readClass_loadA h (populates_of_forms s.cfg h rfl) m (· ||| ·) hr
  case eor => exact readClass_loadA h (populates_of_forms s.cfg h rfl) m (· ^^^ ·) hr

/-- Settles O39: each of the three compares its own register. -/
theorem comparesComplete : Obligations.ComparesComplete := by
  unfold Obligations.ComparesComplete
  refine ⟨fun m => ⟨rfl, rfl, rfl⟩, fun m op s hr => ⟨fun h => ?cmp, fun h => ?cpx, fun h => ?cpy⟩⟩
  case cmp => exact readClass_compare h (populates_of_forms s.cfg h rfl) m (fun u => u.a) hr fun _ _ => rfl
  case cpx => exact readClass_compare h (populates_of_forms s.cfg h rfl) m (fun u => u.x) hr fun _ _ => rfl
  case cpy => exact readClass_compare h (populates_of_forms s.cfg h rfl) m (fun u => u.y) hr fun _ _ => rfl

/-- Settles O40: BIT reads its operand and writes three flags. -/
theorem bitCompletes : Obligations.BitCompletes := by
  unfold Obligations.BitCompletes
  refine ⟨fun m => rfl, fun m op s h hr => ?_⟩
  obtain ⟨t, ht, hafter, ha, hx, hy, hsp, hflags⟩ :=
    readClass_registers h (populates_of_forms s.cfg h rfl) m (fun v u => { u with p := u.p.afterBit u.a v }) hr
      fun _ _ => rfl
  exact ⟨t, ht, ⟨ha, hx, hy, hsp⟩, hafter, hflags⟩

/-! ### Increments and decrements -/

/-- A read-modify-write of memory that ends with its core leaves A, and the core's flags. -/
theorem rmwClass_core {i : Instr} {op : Byte} {s : State} {m : Mode} (h : i.opcodeOf = some op)
    (hp : s.cfg.populates op = true) (hm : m ≠ .acc) (k : ByteCore) (hr : s.Ready) (hw : s.mem.wf = true) :
    ∃ t, rmwClass i m k (fun _ u => u) s = .next t ∧ t.a = s.a ∧ t.p = (k (s.rmwOld m) s.p).2 ∧
      s.AfterRmw t m op (k (s.rmwOld m) s.p).1 := by
  obtain ⟨t, u, ht, hafter, -, hua, hup, ha, hflags⟩ :=
    rmwClass_after h hp hm k (fun _ u => u) hr hw fun _ _ => rfl
  exact ⟨t, ht, ha.trans hua, hflags.trans hup, hafter⟩

/-- Settles O41: each of the two is a read-modify-write with its own core. -/
theorem incDecCompletes : Obligations.IncDecCompletes := by
  unfold Obligations.IncDecCompletes
  refine ⟨fun m => ⟨rfl, rfl⟩, fun m op s hr hw => ⟨fun h => ?inc, fun h => ?dec⟩⟩
  case inc =>
    obtain ⟨t, ht, ha, hflags, hafter⟩ :=
      rmwClass_core h (populates_of_forms s.cfg h rfl) (mode_ne_acc h rfl) incCore hr hw
    exact ⟨t, _, Byte.toNat_add_one (s.rmwOld m), ht, ha, hflags, hafter⟩
  case dec =>
    obtain ⟨t, ht, ha, hflags, hafter⟩ :=
      rmwClass_core h (populates_of_forms s.cfg h rfl) (mode_ne_acc h rfl) decCore hr hw
    exact ⟨t, _, Byte.toNat_sub_one (s.rmwOld m), ht, ha, hflags, hafter⟩

/-- Settles O42: each of the four loads its index register with one more or one less. -/
theorem indexIncDecCompletes : Obligations.IndexIncDecCompletes := by
  unfold Obligations.IndexIncDecCompletes
  refine fun op s hr => ⟨fun h => ⟨(Option.some.inj h).symm, ?inx⟩, fun h => ⟨(Option.some.inj h).symm, ?iny⟩,
    fun h => ⟨(Option.some.inj h).symm, ?dex⟩, fun h => ⟨(Option.some.inj h).symm, ?dey⟩⟩
  case inx =>
    obtain ⟨t, ht, hx, ha, hy, hsp, hflags, hafter⟩ :=
      impliedClass_loadX h (populates_of_forms s.cfg h rfl) (fun u => u.x + 1) hr
    exact ⟨t, ht, hx ▸ Byte.toNat_add_one s.x, ha, hy, hsp, by rw [hflags, hx]; rfl, hafter⟩
  case iny =>
    obtain ⟨t, ht, hy, ha, hx, hsp, hflags, hafter⟩ :=
      impliedClass_loadY h (populates_of_forms s.cfg h rfl) (fun u => u.y + 1) hr
    exact ⟨t, ht, hy ▸ Byte.toNat_add_one s.y, ha, hx, hsp, by rw [hflags, hy]; rfl, hafter⟩
  case dex =>
    obtain ⟨t, ht, hx, ha, hy, hsp, hflags, hafter⟩ :=
      impliedClass_loadX h (populates_of_forms s.cfg h rfl) (fun u => u.x - 1) hr
    exact ⟨t, ht, hx ▸ Byte.toNat_sub_one s.x, ha, hy, hsp, by rw [hflags, hx]; rfl, hafter⟩
  case dey =>
    obtain ⟨t, ht, hy, ha, hx, hsp, hflags, hafter⟩ :=
      impliedClass_loadY h (populates_of_forms s.cfg h rfl) (fun u => u.y - 1) hr
    exact ⟨t, ht, hy ▸ Byte.toNat_sub_one s.y, ha, hx, hsp, by rw [hflags, hy]; rfl, hafter⟩

end Sys2Proof.Machine
end

section
/-! Shifts and rotates (R230 to R234): the shift cores on unsigned values and bits, what a read-modify-write of A leaves,
and the four instructions. -/

namespace Sys2Proof.Machine

/-! ### The cores (R230) -/

/-- A carry comes into a byte at a place where the byte has no bit: the sum is exact. -/
theorem Byte.toNat_or_carry {v b : Byte} (h : v &&& b = 0) (c : Bool) :
    (v ||| if c then b else 0).toNat = v.toNat + c.toNat * b.toNat := by
  cases c
  · simp
  · rw [if_pos rfl, ← BitVec.add_eq_or_of_and_eq_zero v b h, BitVec.toNat_add_of_and_eq_zero h, Bool.toNat_true,
      Nat.one_mul]

/-! A shift frees the bit at its end. -/

theorem Byte.shiftLeft_one_and_one (v : Byte) : v <<< 1 &&& 0x01 = 0 :=
  (BitVec.and_twoPow (v <<< 1) 0).trans (by simp)

theorem Byte.ushiftRight_one_and_top (v : Byte) : v >>> 1 &&& 0x80 = 0 :=
  (BitVec.and_twoPow (v >>> 1) 7).trans (by simp)

section
variable (v : Byte) (p : Flags)

theorem shiftASL_toNat : (shiftASL v p).1.toNat = v.toNat * 2 % 256 := by
  rw [shiftASL, BitVec.toNat_shiftLeft, Nat.shiftLeft_eq]

theorem shiftLSR_toNat : (shiftLSR v p).1.toNat = v.toNat / 2 := by
  rw [shiftLSR, BitVec.toNat_ushiftRight, Nat.shiftRight_eq_div_pow]

theorem shiftROL_toNat : (shiftROL v p).1.toNat = v.toNat * 2 % 256 + p.c.toNat :=
  calc (shiftROL v p).1.toNat
    _ = (shiftASL v p).1.toNat + p.c.toNat * 1 := Byte.toNat_or_carry (Byte.shiftLeft_one_and_one v) p.c
    _ = v.toNat * 2 % 256 + p.c.toNat := by rw [shiftASL_toNat, Nat.mul_one]

theorem shiftROR_toNat : (shiftROR v p).1.toNat = v.toNat / 2 + p.c.toNat * 128 :=
  calc (shiftROR v p).1.toNat
    _ = (shiftLSR v p).1.toNat + p.c.toNat * 128 := Byte.toNat_or_carry (Byte.ushiftRight_one_and_top v) p.c
    _ = v.toNat / 2 + p.c.toNat * 128 := by rw [shiftLSR_toNat]

/-- LSR shifts a zero into bit 7. -/
theorem shiftLSR_getLsbD_seven : (shiftLSR v p).1.getLsbD 7 = false := by
  simp [shiftLSR]

/-- ROR shifts the old C into bit 7. -/
theorem shiftROR_getLsbD_seven : (shiftROR v p).1.getLsbD 7 = p.c := by
  cases hc : p.c <;> simp [shiftROR, hc]

/-! The flags: C is the bit shifted out, N and Z are of the result. -/

theorem shiftASL_flags :
    (shiftASL v p).2 =
      { p with
        c := v.getLsbD 7, n := (shiftASL v p).1.getLsbD 7, z := decide ((shiftASL v p).1 = 0) } := rfl

theorem shiftLSR_flags :
    (shiftLSR v p).2 = { p with c := v.getLsbD 0, n := false, z := decide ((shiftLSR v p).1 = 0) } := by
  rw [← shiftLSR_getLsbD_seven v p]
  rfl

theorem shiftROL_flags :
    (shiftROL v p).2 =
      { p with
        c := v.getLsbD 7, n := (shiftROL v p).1.getLsbD 7, z := decide ((shiftROL v p).1 = 0) } := rfl

theorem shiftROR_flags :
    (shiftROR v p).2 = { p with c := v.getLsbD 0, n := p.c, z := decide ((shiftROR v p).1 = 0) } := by
  conv_rhs => rw [← shiftROR_getLsbD_seven v p]
  rfl

end

/-! ### The instructions -/

/-- The state after a read-modify-write of A with the core `k` (R111). -/
def State.coreOnA (k : ByteCore) (s : State) : State :=
  { s with a := (k s.a s.p).1, p := (k s.a s.p).2 }

/-- A read-modify-write of A that ends with its core is an implied instruction: no access, no page to cross. -/
theorem rmwClass_acc (i : Instr) (k : ByteCore) (s : State) :
    rmwClass i .acc k (fun _ u => u) s = impliedClass i (State.coreOnA k) s := rfl

/-- A read-modify-write of A that ends with its core leaves the core's result in A, and the core's flags (R111). -/
theorem rmwClass_acc_core {i : Instr} {op : Byte} {s : State} (h : i.opcodeOf = some op)
    (hp : s.cfg.populates op = true) (k : ByteCore) (hr : s.Ready) :
    ∃ t, rmwClass i .acc k (fun _ u => u) s = .next t ∧ t.a = (k s.a s.p).1 ∧ s.SameXYS t ∧ s.AfterImplied t op ∧
      t.p = (k s.a s.p).2 := by
  rw [rmwClass_acc]
  obtain ⟨t, ht, hafter, ha, hx, hy, hsp, hflags⟩ := impliedClass_after h hp (State.coreOnA k) hr rfl
  exact ⟨t, ht, ha, ⟨hx, hy, hsp⟩, hafter, hflags⟩

/-- Settles O43: each of the four is a read-modify-write with its own core, of A or of memory. -/
theorem shiftsComplete : Obligations.ShiftsComplete := by
  unfold Obligations.ShiftsComplete
  refine ⟨fun m => ⟨rfl, rfl, rfl, rfl⟩, fun op s hr => ?accumulator, fun m op s hm hr hw => ?memory⟩
  case accumulator =>
    refine ⟨fun h => ⟨(Option.some.inj h).symm, ?asl⟩, fun h => ⟨(Option.some.inj h).symm, ?lsr⟩,
      fun h => ⟨(Option.some.inj h).symm, ?rol⟩, fun h => ⟨(Option.some.inj h).symm, ?ror⟩⟩
    case asl =>
      obtain ⟨t, ht, ha, hxys, hafter, hflags⟩ :=
        rmwClass_acc_core h (populates_of_forms s.cfg h rfl) shiftASL hr
      exact ⟨t, ht, ha ▸ shiftASL_toNat s.a s.p, hxys, hafter, by rw [hflags, ha, shiftASL_flags]⟩
    case lsr =>
      obtain ⟨t, ht, ha, hxys, hafter, hflags⟩ :=
        rmwClass_acc_core h (populates_of_forms s.cfg h rfl) shiftLSR hr
      exact ⟨t, ht, ha ▸ shiftLSR_toNat s.a s.p, hxys, hafter, by rw [hflags, ha, shiftLSR_flags]⟩
    case rol =>
      obtain ⟨t, ht, ha, hxys, hafter, hflags⟩ :=
        rmwClass_acc_core h (populates_of_forms s.cfg h rfl) shiftROL hr
      exact ⟨t, ht, ha ▸ shiftROL_toNat s.a s.p, hxys, hafter, by rw [hflags, ha, shiftROL_flags]⟩
    case ror =>
      obtain ⟨t, ht, ha, hxys, hafter, hflags⟩ :=
        rmwClass_acc_core h (populates_of_forms s.cfg h rfl) shiftROR hr
      exact ⟨t, ht, ha ▸ shiftROR_toNat s.a s.p, hxys, hafter, by rw [hflags, ha, shiftROR_flags]⟩
  case memory =>
    refine ⟨fun h => ?asl, fun h => ?lsr, fun h => ?rol, fun h => ?ror⟩
    case asl =>
      obtain ⟨t, ht, ha, hflags, hafter⟩ := rmwClass_core h (populates_of_forms s.cfg h rfl) hm shiftASL hr hw
      exact ⟨t, _, shiftASL_toNat _ s.p, ht, ha, hafter, hflags.trans (shiftASL_flags ..)⟩
    case lsr =>
      obtain ⟨t, ht, ha, hflags, hafter⟩ := rmwClass_core h (populates_of_forms s.cfg h rfl) hm shiftLSR hr hw
      exact ⟨t, _, shiftLSR_toNat _ s.p, ht, ha, hafter, hflags.trans (shiftLSR_flags ..)⟩
    case rol =>
      obtain ⟨t, ht, ha, hflags, hafter⟩ := rmwClass_core h (populates_of_forms s.cfg h rfl) hm shiftROL hr hw
      exact ⟨t, _, shiftROL_toNat _ s.p, ht, ha, hafter, hflags.trans (shiftROL_flags ..)⟩
    case ror =>
      obtain ⟨t, ht, ha, hflags, hafter⟩ := rmwClass_core h (populates_of_forms s.cfg h rfl) hm shiftROR hr hw
      exact ⟨t, _, shiftROR_toNat _ s.p, ht, ha, hafter, hflags.trans (shiftROR_flags ..)⟩

end Sys2Proof.Machine
end

section
/-! Branches, jumps and subroutines (R250 to R261): a word on the stack, the closed form of each control instruction in
a ready state, and the eleven instructions. -/

namespace Sys2Proof.Machine

/-! ### Branches -/

/-- Settles O44: each of the eight is a branch on its own flag. -/
theorem branchesComplete : Obligations.BranchesComplete := by
  unfold Obligations.BranchesComplete
  refine ⟨by decide, fun d op s hr => ?_⟩
  simp only [beq_false, beq_true]
  refine ⟨fun h => ⟨(Option.some.inj h).symm, ?bcc⟩, fun h => ⟨(Option.some.inj h).symm, ?bcs⟩,
    fun h => ⟨(Option.some.inj h).symm, ?beq⟩, fun h => ⟨(Option.some.inj h).symm, ?bmi⟩,
    fun h => ⟨(Option.some.inj h).symm, ?bne⟩, fun h => ⟨(Option.some.inj h).symm, ?bpl⟩,
    fun h => ⟨(Option.some.inj h).symm, ?bvc⟩, fun h => ⟨(Option.some.inj h).symm, ?bvs⟩⟩
  case bcc => exact branchClass_next h (populates_of_forms s.cfg h rfl) (!s.p.c) d hr
  case bcs => exact branchClass_next h (populates_of_forms s.cfg h rfl) s.p.c d hr
  case beq => exact branchClass_next h (populates_of_forms s.cfg h rfl) s.p.z d hr
  case bmi => exact branchClass_next h (populates_of_forms s.cfg h rfl) s.p.n d hr
  case bne => exact branchClass_next h (populates_of_forms s.cfg h rfl) (!s.p.z) d hr
  case bpl => exact branchClass_next h (populates_of_forms s.cfg h rfl) (!s.p.n) d hr
  case bvc => exact branchClass_next h (populates_of_forms s.cfg h rfl) (!s.p.v) d hr
  case bvs => exact branchClass_next h (populates_of_forms s.cfg h rfl) s.p.v d hr

/-! ### JMP -/

/-- JMP ends in the state its resolver leaves, with PC at the effective address (R259). -/
theorem exec_jmp_next {m : Mode} {op : Byte} {s : State} (h : (Instr.jmp m).opcodeOf = some op) (hr : s.Ready) :
    exec (.jmp m) s = .next
      (let u := (s.resolve m).2
       { u with pc := (s.resolve m).1.ea, cycles := u.cycles + (u.cfg.baseCyclesOf op + 0) }) := by
  change withRow (.jmp m) s _ = _
  rw [withRow_some h (populates_of_forms s.cfg h rfl)]
  exact complete_next op 0 ((State.resolve_fault hr.2 m).trans hr.1)

/-- Settles O45: a resolver changes the bus record and the draws only, and JMP adds PC and the charge. -/
theorem jmpCompletes : Obligations.JmpCompletes := by
  unfold Obligations.JmpCompletes
  refine ⟨fun m => rfl, fun m op s h hr => ⟨_, exec_jmp_next h hr, rfl, ?_⟩⟩
  obtain ⟨hregs, hflags, -, hrun, hmem⟩ := State.resolve_frame hr.2 m
  exact ⟨hregs, hflags, by simp [State.Charged], rfl, rfl, hrun, hmem⟩

/-! ### A word on the stack -/

section
variable {s : State}

/-- The two writes of a pushed word, the high byte's first (R260). -/
theorem State.pushWord_bus (h : s.Full) (w : Word) :
    (s.pushWord w).bus =
      .write (stackAddr (s.sp - 1)) (loByte w) :: .write (stackAddr s.sp) (hiByte w) :: s.bus := by
  unfold State.pushWord
  rw [State.push_bus (h.push _), State.push_bus h, State.push_sp]

/-- The push of the low byte leaves the cell of the high byte. -/
theorem State.peek_pushWord_hi (w : Word) :
    (s.pushWord w).peek (stackAddr s.sp) = (s.push (hiByte w)).peek (stackAddr s.sp) :=
  State.peek_push_other (stackAddr_ne_one s.sp).symm _

theorem State.peek_pushWord_lo (h : s.Full) (hw : s.mem.wf = true) (hd : s.inDev (stackAddr (s.sp - 1)) = false)
    (w : Word) : (s.pushWord w).peek (stackAddr (s.sp - 1)) = loByte w :=
  State.peek_push_same (h.push _) ((kept_push _ s).wf hw) ((State.inDev_congr (by simp) _).trans hd) _

/-- A custom handler at the low byte's address leaves its cell, which the push of the high byte does not reach. -/
theorem State.peek_pushWord_lo_dev (hd : s.inDev (stackAddr (s.sp - 1)) = true) (w : Word) :
    (s.pushWord w).peek (stackAddr (s.sp - 1)) = s.peek (stackAddr (s.sp - 1)) :=
  (State.peek_push_dev (s := s.push (hiByte w)) ((State.inDev_congr (by simp) _).trans hd) _ _).trans
    (State.peek_push_other (stackAddr_ne_one s.sp) _)

theorem State.pushWord_sameMemBut (w : Word) :
    s.SameMemBut (s.pushWord w) [stackAddr s.sp, stackAddr (s.sp - 1)] := by
  intro b hb
  obtain ⟨hhi, hlo⟩ : b ≠ stackAddr s.sp ∧ b ≠ stackAddr (s.sp - 1) := by simpa using hb
  exact (State.peek_push_other (s := s.push (hiByte w)) hlo _).trans (State.peek_push_other hhi _)

/-! The bytes of a popped word, and the two reads, the low byte's first (R261). -/

theorem State.popWord_lo (hd : s.inDev (stackAddr (s.sp + 1)) = false) :
    loByte s.popWord.1 = s.peek (stackAddr (s.sp + 1)) :=
  (loByte_cat _ _).trans (State.pop_value hd)

theorem State.pop_sp_add_one : s.pop.2.sp + 1 = s.sp + 2 := by
  rw [State.pop_sp, BitVec.add_assoc]
  rfl

theorem State.popWord_hi (hd : s.inDev (stackAddr (s.sp + 2)) = false) :
    hiByte s.popWord.1 = s.peek (stackAddr (s.sp + 2)) := by
  rw [← State.pop_sp_add_one] at hd ⊢
  exact (hiByte_cat _ _).trans <| (State.pop_value ((State.inDev_congr (by simp) _).trans hd)).trans
    (State.peek_congr (by simp) _)

theorem State.popWord_bus (h : s.Full) :
    s.popWord.2.bus =
      .read (stackAddr (s.sp + 2)) (hiByte s.popWord.1) :: .read (stackAddr (s.sp + 1)) (loByte s.popWord.1) ::
        s.bus := by
  unfold State.popWord
  simp only [hiByte_cat, loByte_cat, State.pop_bus h.pop, State.pop_bus h, State.pop_sp_add_one]

/-- Plain stack cells give back the word pushed: `t` is any state with the stack pointer, the cells and the handlers
that the push left. -/
theorem State.popWord_of_pushWord (h : s.Full) (hw : s.mem.wf = true)
    (hplain : s.Plain [stackAddr s.sp, stackAddr (s.sp - 1)]) (w : Word) {t : State}
    (hsp : t.sp = (s.pushWord w).sp) (hmem : t.mem = (s.pushWord w).mem) (hdev : t.dev = s.dev) :
    t.popWord.1 = w := by
  obtain ⟨hd1, hd2⟩ : s.inDev (stackAddr s.sp) = false ∧ s.inDev (stackAddr (s.sp - 1)) = false := by
    simpa [State.Plain] using hplain
  have e1 : t.sp + 1 = s.sp - 1 := by rw [hsp, State.pushWord_sp, sub_add_cancel]
  have e2 : t.sp + 2 = s.sp := by rw [hsp, State.pushWord_sp]; bv_omega
  have hlo : loByte t.popWord.1 = loByte w := by
    rw [State.popWord_lo (by rw [e1, State.inDev_congr hdev, hd2]), e1, State.peek_congr hmem,
      State.peek_pushWord_lo h hw hd2]
  have hhi : hiByte t.popWord.1 = hiByte w := by
    rw [State.popWord_hi (by rw [e2, State.inDev_congr hdev, hd1]), e2, State.peek_congr hmem,
      State.peek_pushWord_hi, State.peek_push_same h hw hd1]
  rw [← cat_hiByte_loByte t.popWord.1, hhi, hlo, cat_hiByte_loByte]

end

/-! ### JSR and RTS -/

/-- JSR ends in the state after the push of its last byte's address, with PC at the target (R260). -/
theorem exec_jsr_next (w : Word) {s : State} (hr : s.Ready) :
    exec (.jsr w) s = .next
      (let u := s.pushWord (s.pc - 1)
       { u with pc := w, cycles := u.cycles + (u.cfg.baseCyclesOf 0x20 + 0) }) :=
  impliedClass_next (i := .jsr w) rfl (populates_of_forms s.cfg (i := .jsr w) rfl rfl)
    (fun u => { u.pushWord (u.pc - 1) with pc := w }) ((State.pushWord_fault hr.2 _).trans hr.1)

/-- RTS ends in the state after a throwaway read and the pop of a word, with PC one past that word (R261). -/
theorem exec_rts_next {s : State} (hr : s.Ready) :
    exec .rts s = .next
      (let r := s.throwaway.popWord
       { r.2 with pc := r.1 + 1, cycles := r.2.cycles + (r.2.cfg.baseCyclesOf 0x60 + 0) }) :=
  impliedClass_next (i := .rts) rfl (populates_of_forms s.cfg (i := .rts) rfl rfl)
    (fun u => { u.throwaway.popWord.2 with pc := u.throwaway.popWord.1 + 1 })
    ((State.popWord_fault hr.2.throwaway).trans ((State.throwaway_fault hr.2).trans hr.1))

/-- Settles O46: JSR is the push of a word, RTS a throwaway read and the pop of one. -/
theorem jsrRtsComplete : Obligations.JsrRtsComplete := by
  unfold Obligations.JsrRtsComplete
  refine ⟨fun w op s h hr hw => ?jsr, fun op s h hr => ?rts⟩
  case jsr =>
    obtain rfl : op = 0x20 := (Option.some.inj h).symm
    refine ⟨rfl, _, exec_jsr_next w hr, rfl, by simp [BitVec.sub_sub], by simp, by simp, by simp, by simp, ?hi, ?lo,
      ?hiDev, ?loDev, State.pushWord_sameMemBut _, State.pushWord_bus hr.2 _, by simp [State.Charged], by simp,
      by simp [State.SameRun, State.pushWord_fault hr.2]⟩
    case hi => exact fun hd => (State.peek_pushWord_hi _).trans (State.peek_push_same hr.2 hw hd _)
    case lo => exact fun hd => State.peek_pushWord_lo hr.2 hw hd _
    case hiDev => exact fun hd => (State.peek_pushWord_hi _).trans (State.peek_push_dev hd _ _)
    case loDev => exact fun hd => State.peek_pushWord_lo_dev hd _
  case rts =>
    obtain rfl : op = 0x60 := (Option.some.inj h).symm
    refine ⟨rfl, _, loByte s.throwaway.popWord.1, hiByte s.throwaway.popWord.1, exec_rts_next hr, by simp,
      by simp [BitVec.add_assoc], by simp, by simp, by simp, by simp, ?bus, ?lo, ?hi, by simp [State.Charged],
      by simp [State.SameRun, State.popWord_fault hr.2.throwaway, State.throwaway_fault hr.2],
      State.peek_congr (by simp)⟩
    case bus =>
      refine (State.popWord_bus hr.2.throwaway).trans ?_
      rw [State.throwaway_bus hr.2, State.throwaway_sp]
    case lo => simpa [State.inDev, State.peek] using State.popWord_lo (s := s.throwaway)
    case hi => simpa [State.inDev, State.peek] using State.popWord_hi (s := s.throwaway)

/-- Settles O47: RTS pops the word that JSR pushed, the address before the one where the program continues. -/
theorem rtsAfterJsrContinuesAfterIt : Obligations.RtsAfterJsrContinuesAfterIt := by
  unfold Obligations.RtsAfterJsrContinuesAfterIt
  intro w q s t u hr hw hplain hjsr hrts
  obtain rfl := Host.Outcome.next.inj ((exec_jsr_next w hr).symm.trans hjsr)
  obtain rfl := Host.Outcome.next.inj <| hrts.symm.trans <|
    exec_rts_next ⟨(State.pushWord_fault hr.2 _).trans hr.1, hr.2.of_memSize (State.pushWord_memSize _ s)⟩
  refine ⟨?pc, by simp, by simp, by simp, by simp, by simp⟩
  case pc =>
    exact (congrArg (· + 1) (State.popWord_of_pushWord hr.2 hw hplain _ (by simp) (by simp) (by simp))).trans
      (sub_add_cancel s.pc 1)

end Sys2Proof.Machine
end

section
/-! Stack, flag and system instructions (R280 to R293): one push and one pop after a throwaway read, the return from an
interrupt as the pops of a byte and of a word, and the fourteen instructions. -/

namespace Sys2Proof.Machine

/-! ### One push, one pop, one write of the flags -/

section
variable {i : Instr} {op : Byte} {s : State} (h : i.opcodeOf = some op) (hp : s.cfg.populates op = true)
include h hp

/-- An implied instruction that pushes the byte `v` of the state before its throwaway read (R112, R26). -/
theorem impliedClass_push (v : State → Byte) (hr : s.Ready) (hw : s.mem.wf = true) :
    ∃ t, impliedClass i (fun u => u.throwaway.push (v u)) s = .next t ∧ s.AfterPush t op (v s) := by
  have hf := hr.2.throwaway
  refine ⟨_, impliedClass_next h hp _ ((State.push_fault hf _).trans ((State.throwaway_fault hr.2).trans hr.1)),
    ?stored, by simp, by simp, by simp, by simp, by simp, by simp, by simp [State.Charged], ?bus, by simp,
    by simp [State.SameRun, State.push_fault hf, State.throwaway_fault hr.2]⟩
  case stored =>
    exact stored_of_write hf (by simpa using hw) _ _ (fun b => .inl (State.peek_congr (by simp) b)) (by simp)
      (by simp [State.push])
  case bus =>
    refine (State.push_bus hf _).trans ?_
    rw [State.throwaway_bus hr.2, State.throwaway_sp]

/-- An implied instruction that pops a byte after its throwaway read, and writes of it A and flags only (R112, R26). -/
theorem impliedClass_pop (f : Byte → State → State) (hr : s.Ready)
    (hf : ∀ v u, f v u = { u with a := (f v u).a, p := (f v u).p }) :
    ∃ t, impliedClass i (fun u => f u.throwaway.pop.1 u.throwaway.pop.2) s = .next t ∧
      s.AfterPop t op s.throwaway.pop.1 ∧
      t.a = (f s.throwaway.pop.1 s.throwaway.pop.2).a ∧ t.p = (f s.throwaway.pop.1 s.throwaway.pop.2).p := by
  have hfault : s.throwaway.pop.2.fault = s.fault :=
    (State.pop_fault hr.2.throwaway).trans (State.throwaway_fault hr.2)
  refine ⟨_, impliedClass_next h hp _ (by rw [hf, hfault, hr.1]), ?_, rfl, rfl⟩
  rw [hf]
  refine ⟨by simp, by simp, by simp, by simp, by simp [State.Charged], ?bus, ?value, rfl,
    by simp [State.SameRun, hfault], State.peek_congr (by simp)⟩
  case bus =>
    refine (State.pop_bus hr.2.throwaway).trans ?_
    rw [State.throwaway_bus hr.2, State.throwaway_sp]
  case value => simpa [State.inDev, State.peek] using State.pop_value (s := s.throwaway)

/-- An implied instruction that writes flags only (R284 to R291). -/
theorem impliedClass_flags (f : Flags → Flags) (hr : s.Ready) :
    impliedClass i (fun u => { u with p := f u.p }) s =
      .next { s with p := f s.p, cycles := s.cycles + s.cfg.baseCyclesOf op } :=
  impliedClass_next h hp _ hr.1

end

/-- Settles O48: PHA and PHP push after a throwaway read, PLA and PLP pop. -/
theorem stackInstructionsComplete : Obligations.StackInstructionsComplete := by
  unfold Obligations.StackInstructionsComplete
  refine fun op s hr hw => ⟨fun h => ⟨(Option.some.inj h).symm, ?pha⟩, fun h => ⟨(Option.some.inj h).symm, ?php⟩,
    fun h => ⟨(Option.some.inj h).symm, ?pla⟩, fun h => ⟨(Option.some.inj h).symm, ?plp⟩⟩
  case pha => exact impliedClass_push h (populates_of_forms s.cfg h rfl) (fun u => u.a) hr hw
  case php => exact impliedClass_push h (populates_of_forms s.cfg h rfl) (fun u => u.statusByte ||| 0x10) hr hw
  case pla =>
    obtain ⟨t, ht, hafter, ha, hflags⟩ :=
      impliedClass_pop h (populates_of_forms s.cfg h rfl) State.loadA hr fun _ _ => rfl
    rw [State.loadA_a] at ha
    exact ⟨t, ht, ha ▸ hafter, by simpa [ha, Flags.setNZ] using hflags⟩
  case plp =>
    obtain ⟨t, ht, hafter, ha, hflags⟩ :=
      impliedClass_pop h (populates_of_forms s.cfg h rfl) State.setStatus hr fun _ _ => rfl
    exact ⟨t, _, ht, hafter, by simpa using ha, hflags⟩

/-- Settles O49: each of the eight is an implied instruction with its own write of the flags, NOP's with none. -/
theorem flagInstructionsComplete : Obligations.FlagInstructionsComplete := by
  unfold Obligations.FlagInstructionsComplete
  refine fun op s hr => ⟨fun h => ⟨(Option.some.inj h).symm, ?clc⟩, fun h => ⟨(Option.some.inj h).symm, ?cld⟩,
    fun h => ⟨(Option.some.inj h).symm, ?cli⟩, fun h => ⟨(Option.some.inj h).symm, ?clv⟩,
    fun h => ⟨(Option.some.inj h).symm, ?sec⟩, fun h => ⟨(Option.some.inj h).symm, ?sed⟩,
    fun h => ⟨(Option.some.inj h).symm, ?sei⟩, fun h => ⟨(Option.some.inj h).symm, ?nop⟩⟩
  case clc => exact impliedClass_flags h (populates_of_forms s.cfg h rfl) (fun p => { p with c := false }) hr
  case cld => exact impliedClass_flags h (populates_of_forms s.cfg h rfl) (fun p => { p with d := false }) hr
  case cli => exact impliedClass_flags h (populates_of_forms s.cfg h rfl) (fun p => { p with i := false }) hr
  case clv => exact impliedClass_flags h (populates_of_forms s.cfg h rfl) (fun p => { p with v := false }) hr
  case sec => exact impliedClass_flags h (populates_of_forms s.cfg h rfl) (fun p => { p with c := true }) hr
  case sed => exact impliedClass_flags h (populates_of_forms s.cfg h rfl) (fun p => { p with d := true }) hr
  case sei => exact impliedClass_flags h (populates_of_forms s.cfg h rfl) (fun p => { p with i := true }) hr
  case nop => exact impliedClass_flags h (populates_of_forms s.cfg h rfl) id hr

/-! ### BRK -/

/-- BRK ends in the interrupt entry at 0xFFFE, charged, with bit 4 of the pushed status byte set (R292). -/
theorem exec_brk_next (pad : Byte) {s : State} (hr : s.Ready) :
    exec (.brk pad) s = .next
      (let u := s.interruptEntry irqVector (s.statusByte ||| 0x10)
       { u with cycles := u.cycles + (u.cfg.baseCyclesOf 0x00 + 0) }) :=
  impliedClass_next (i := .brk pad) rfl (populates_of_forms s.cfg (i := .brk pad) rfl rfl)
    (fun u => u.interruptEntry irqVector (u.statusByte ||| 0x10)) ((State.interruptEntry_fault hr.2 _ _).trans hr.1)

/-- Settles O25: the interrupt entry changes neither the counter nor the parameters, so the charge is that of `s`. -/
theorem brkEntersTheHandler : Obligations.BrkEntersTheHandler := by
  unfold Obligations.BrkEntersTheHandler
  intro pad op s h hr
  obtain rfl : op = 0x00 := (Option.some.inj h).symm
  refine ⟨rfl, by decide, (exec_brk_next pad hr).trans ?_⟩
  simp [irqVector]

/-! ### RTI -/

section
variable {s : State}

/-- The three reads of the return from an interrupt: the status byte, then PC, the low byte first (R293). -/
theorem State.returnFromInterrupt_bus (h : s.Full) :
    s.returnFromInterrupt.bus =
      .read (stackAddr (s.sp + 3)) (hiByte s.returnFromInterrupt.pc) ::
        .read (stackAddr (s.sp + 2)) (loByte s.returnFromInterrupt.pc) ::
          .read (stackAddr (s.sp + 1)) s.pop.1 :: s.bus := by
  refine (State.popWord_bus (s := s.pop.2.setStatus s.pop.1) (h.of_memSize (by simp))).trans ?_
  rw [State.setStatus_bus, State.pop_bus h, State.setStatus_sp, State.pop_sp, BitVec.add_assoc, BitVec.add_assoc]
  rfl

theorem State.returnFromInterrupt_pc_lo (hd : s.inDev (stackAddr (s.sp + 2)) = false) :
    loByte s.returnFromInterrupt.pc = s.peek (stackAddr (s.sp + 2)) := by
  have hlo := State.popWord_lo (s := s.pop.2.setStatus s.pop.1)
  rw [State.setStatus_sp, State.pop_sp_add_one, State.inDev_congr (s := s) (by simp),
    State.peek_congr (s := s) (by simp)] at hlo
  exact hlo hd

theorem State.returnFromInterrupt_pc_hi (hd : s.inDev (stackAddr (s.sp + 3)) = false) :
    hiByte s.returnFromInterrupt.pc = s.peek (stackAddr (s.sp + 3)) := by
  have hsp : s.pop.2.sp + 2 = s.sp + 3 := by
    rw [State.pop_sp, BitVec.add_assoc]
    rfl
  have hhi := State.popWord_hi (s := s.pop.2.setStatus s.pop.1)
  rw [State.setStatus_sp, hsp, State.inDev_congr (s := s) (by simp), State.peek_congr (s := s) (by simp)] at hhi
  exact hhi hd

end

/-- RTI ends in the return from an interrupt after a throwaway read, charged (R293). -/
theorem exec_rti_next {s : State} (hr : s.Ready) :
    exec .rti s = .next
      (let u := s.throwaway.returnFromInterrupt
       { u with cycles := u.cycles + (u.cfg.baseCyclesOf 0x40 + 0) }) :=
  impliedClass_next (i := .rti) rfl (populates_of_forms s.cfg (i := .rti) rfl rfl)
    (fun u => u.throwaway.returnFromInterrupt)
    ((State.returnFromInterrupt_fault hr.2.throwaway).trans ((State.throwaway_fault hr.2).trans hr.1))

/-- Settles O26: the return from an interrupt, in the state after the throwaway read. -/
theorem rtiReturns : Obligations.RtiReturns := by
  unfold Obligations.RtiReturns
  intro op s h hr
  obtain rfl : op = 0x40 := (Option.some.inj h).symm
  have hf := hr.2.throwaway
  refine ⟨rfl, by decide, _, s.throwaway.pop.1, loByte s.throwaway.returnFromInterrupt.pc,
    hiByte s.throwaway.returnFromInterrupt.pc, exec_rti_next hr, by simp, by simp, by simp [BitVec.add_assoc], by simp,
    by simp, by simp, ?bus, ?st, ?lo, ?hi, by simp [State.Charged],
    by simp [State.SameRun, State.returnFromInterrupt_fault hf, State.throwaway_fault hr.2],
    State.peek_congr (by simp)⟩
  case bus =>
    refine (State.returnFromInterrupt_bus hf).trans ?_
    rw [State.throwaway_bus hr.2, State.throwaway_sp]
  case st => simpa [State.inDev, State.peek] using State.pop_value (s := s.throwaway)
  case lo => simpa [State.inDev, State.peek] using State.returnFromInterrupt_pc_lo (s := s.throwaway)
  case hi => simpa [State.inDev, State.peek] using State.returnFromInterrupt_pc_hi (s := s.throwaway)

end Sys2Proof.Machine
end

section
/-! Undocumented opcodes (R311 to R332): KIL, a read-modify-write whose new value meets A, an immediate operand as an
implied instruction, a free byte drawn before the registers are written, and the unstable stores. -/

namespace Sys2Proof.Machine

/-! ### KIL -/

/-- KIL ends in the halted state at its own charge, under every configuration (R311, R134). -/
theorem exec_kil_next {op : Byte} (hop : op ∈ kilOpcodes) {s : State} (hr : s.Ready) :
    exec (.kil op) s = .next { s with halted := true, cycles := s.cycles + s.cfg.kilCycles } := by
  have hrow := Laws.Encoding.opcodeOf_own (.kil op) op (P := kilOpcodes.contains op) (f := .IMP) rfl rfl
  rw [if_pos (by simpa using hop)] at hrow
  have hnot : ∀ b ∈ kilOpcodes, optionalOpcodes.contains b = false := by decide
  exact (withRow_some hrow (populates_of_not_optional s.cfg (hnot op hop))).trans (commit_next hr.1)

/-- Settles O50: the twelve opcodes are the rows of KIL. -/
theorem kilCompletes : Obligations.KilCompletes := by
  unfold Obligations.KilCompletes
  exact fun op s hop hr => exec_kil_next hop hr

/-! ### Read-modify-writes whose new value meets A -/

section
variable {i : Instr} {op : Byte} {s : State} (h : i.opcodeOf = some op) (hp : s.cfg.populates op = true)
include h hp

/-- A read-modify-write of memory that loads A with an operation of A and the new value: N and Z are of A, the other
flags of the core. -/
theorem rmwClass_loadA {m : Mode} (hm : m ≠ .acc) (k : ByteCore) (g : Byte → Byte → Byte) (hr : s.Ready)
    (hw : s.mem.wf = true) :
    ∃ t, rmwClass i m k (fun v u => u.loadA (g u.a v)) s = .next t ∧ t.a = g s.a (k (s.rmwOld m) s.p).1 ∧
      s.AfterRmw t m op (k (s.rmwOld m) s.p).1 ∧ t.p = (k (s.rmwOld m) s.p).2.setNZ t.a := by
  obtain ⟨t, u, ht, hafter, -, hua, hup, ha, hflags⟩ :=
    rmwClass_after h hp hm k (fun v u => u.loadA (g u.a v)) hr hw fun _ _ => rfl
  rw [State.loadA_a, hua] at ha
  rw [State.loadA_p, hua, hup, ← ha] at hflags
  exact ⟨t, ht, ha, hafter, hflags⟩

end

/-- Settles O51: SLO loads A after its shift, ISC subtracts after its increment. -/
theorem sloIscComplete : Obligations.SloIscComplete := by
  unfold Obligations.SloIscComplete
  refine ⟨fun m => ⟨rfl, rfl⟩, fun m op s hr hw => ⟨fun h => ?slo, fun h => ?isc⟩⟩
  case slo =>
    obtain ⟨t, ht, ha, hafter, hflags⟩ :=
      rmwClass_loadA h (populates_of_forms s.cfg h rfl) (mode_ne_acc h rfl) shiftASL (· ||| ·) hr hw
    exact ⟨t, _, shiftASL_toNat _ s.p, ht, ha, hafter, hflags⟩
  case isc =>
    obtain ⟨t, u, ht, hafter, -, hua, hup, ha, hflags⟩ :=
      rmwClass_after h (populates_of_forms s.cfg h rfl) (mode_ne_acc h rfl) incOnly (fun v u => u.subCore v) hr hw
        fun _ _ => rfl
    rw [State.subCore_a, hua, hup] at ha
    rw [State.subCore_p, hua, hup] at hflags
    exact ⟨t, ht, hafter, State.subtracted_of_afterSub ha hflags⟩

/-- Settles O52: RLA and SRE load A after their shift, RRA adds with the carry its rotate leaves, DCP compares. -/
theorem optionalRmwComplete : Obligations.OptionalRmwComplete := by
  unfold Obligations.OptionalRmwComplete
  refine ⟨fun m => ⟨rfl, rfl, rfl, rfl⟩, fun m op s hop hr hw => ?_⟩
  have hp := populates_of_mem hop
  refine ⟨fun h => ?rla, fun h => ?sre, fun h => ?rra, fun h => ?dcp⟩
  case rla =>
    obtain ⟨t, ht, ha, hafter, hflags⟩ := rmwClass_loadA h hp (mode_ne_acc h rfl) shiftROL (· &&& ·) hr hw
    exact ⟨t, _, shiftROL_toNat _ s.p, ht, ha, hafter, hflags⟩
  case sre =>
    obtain ⟨t, ht, ha, hafter, hflags⟩ := rmwClass_loadA h hp (mode_ne_acc h rfl) shiftLSR (· ^^^ ·) hr hw
    exact ⟨t, _, shiftLSR_toNat _ s.p, ht, ha, hafter, hflags⟩
  case rra =>
    obtain ⟨t, u, ht, hafter, -, hua, hup, ha, hflags⟩ :=
      rmwClass_after h hp (mode_ne_acc h rfl) shiftROR (fun v u => u.addCore v) hr hw fun _ _ => rfl
    rw [State.addCore_a, hua, hup] at ha
    rw [State.addCore_p, hua, hup] at hflags
    exact ⟨t, _, shiftROR_toNat _ s.p, ht, hafter, State.added_of_afterAdd ha hflags⟩
  case dcp =>
    obtain ⟨t, u, ht, hafter, -, hua, hup, ha, hflags⟩ :=
      rmwClass_after h hp (mode_ne_acc h rfl) decOnly (fun v u => u.compare u.a v) hr hw fun _ _ => rfl
    rw [State.compare_a, hua] at ha
    rw [State.compare_p, hua, hup, afterCompare_eq] at hflags
    exact ⟨t, ht, ha, hafter, hflags⟩

/-! ### Loads, stores and NOPs -/

/-- An undocumented NOP has the opcode byte it carries where its mode's rows list it (R320). -/
theorem opcodeOf_nopUndoc_iff {m : Mode} {op : Byte} :
    (Instr.nopUndoc op m).opcodeOf = some op ↔ op ∈ undocNopOpcodes m.format := by
  rw [Laws.Encoding.opcodeOf_own (.nopUndoc op m) op (P := (undocNopOpcodes m.format).contains op) rfl rfl]
  simp

/-- Settles O53: LAX and the NOPs are reads, SAX is a store. -/
theorem optionalLoadsStoresNopsComplete : Obligations.OptionalLoadsStoresNopsComplete := by
  unfold Obligations.OptionalLoadsStoresNopsComplete
  refine ⟨fun m => ⟨rfl, rfl⟩, fun m op => ?rows, fun m op s hop hr hw => ?_⟩
  case rows =>
    rw [opcodeOf_nopUndoc_iff]
    cases m.format <;> simp [undocNopOpcodes]
  have hp := populates_of_mem hop
  refine ⟨fun h => ?lax, fun h => ?sax, fun h => ?nop⟩
  case lax =>
    obtain ⟨t, ht, hafter, ha, hx, hy, hsp, hflags⟩ :=
      readClass_registers h hp m (fun v u => { u.loadA v with x := v }) hr fun _ _ => rfl
    exact ⟨t, ht, ha, hx, hy, hsp, hflags, hafter⟩
  case sax => exact storeClass_after h hp m (fun u => u.a &&& u.x) hr hw
  case nop =>
    obtain ⟨t, ht, hafter, ha, hx, hy, hsp, hflags⟩ :=
      readClass_registers h hp m (fun _ u => u) hr fun _ _ => rfl
    exact ⟨t, ht, ⟨ha, hx, hy, hsp⟩, hflags, hafter⟩

/-! ### Immediate operands -/

/-- An instruction with an immediate operand is an implied one: no access, no page to cross (R101). -/
theorem readClass_imm (i : Instr) (v : Byte) (f : Byte → State → State) (s : State) :
    readClass i (.imm v) f s = impliedClass i (f v) s := rfl

/-- ANC has the opcode byte it carries where it is one of its two (R322). -/
theorem opcodeOf_anc_iff {op v : Byte} : (Instr.anc op v).opcodeOf = some op ↔ op ∈ ancOpcodes := by
  rw [Laws.Encoding.opcodeOf_own (.anc op v) op (P := ancOpcodes.contains op) (f := .IMM) rfl rfl]
  simp

section
variable {i : Instr} {op : Byte} {s : State} (h : i.opcodeOf = some op) (hp : s.cfg.populates op = true)
include h hp

/-- An instruction with an immediate operand that writes A, X, Y, SP and flags only. -/
theorem readClass_imm_after (v : Byte) (f : Byte → State → State) (hr : s.Ready)
    (hf : ∀ v u, f v u = { u with a := (f v u).a, x := (f v u).x, y := (f v u).y, sp := (f v u).sp, p := (f v u).p }) :
    ∃ t, readClass i (.imm v) f s = .next t ∧ s.AfterImplied t op ∧
      t.a = (f v s).a ∧ t.x = (f v s).x ∧ t.y = (f v s).y ∧ t.sp = (f v s).sp ∧ t.p = (f v s).p := by
  rw [readClass_imm]
  exact impliedClass_after h hp (f v) hr (hf v s)

/-- One that draws a byte first and writes the same of it: it runs in the state after the draw (R327, R328). -/
theorem readClass_imm_drawByte_after (v : Byte) (f : Byte → Byte → State → State) (hr : s.Ready)
    (hf : ∀ v k u, f v k u =
      { u with a := (f v k u).a, x := (f v k u).x, y := (f v k u).y, sp := (f v k u).sp, p := (f v k u).p }) :
    ∃ t, readClass i (.imm v) (fun v u => f v u.drawByte.1 u.drawByte.2) s = .next t ∧
      s.drawByte.2.AfterImplied t op ∧
      let u := f v s.drawByte.1 s.drawByte.2
      t.a = u.a ∧ t.x = u.x ∧ t.y = u.y ∧ t.sp = u.sp ∧ t.p = u.p := by
  have hdrawn : impliedClass i (fun u => f v u.drawByte.1 u.drawByte.2) s =
      impliedClass i (f v s.drawByte.1) s.drawByte.2 := by
    unfold impliedClass
    rw [withRow_some h hp, withRow_some (s := s.drawByte.2) h hp]
  rw [readClass_imm, hdrawn]
  exact impliedClass_after (s := s.drawByte.2) h hp (f v s.drawByte.1) hr (hf _ _ _)

end

/-- Settles O54: each of the five has an immediate operand and its own operation of A, X and the operand. -/
theorem optionalImmediatesComplete : Obligations.OptionalImmediatesComplete := by
  unfold Obligations.OptionalImmediatesComplete
  refine ⟨fun v op => ⟨rfl, rfl, rfl, rfl, ?rows⟩, fun v op s hop hr => ?_⟩
  case rows =>
    rw [opcodeOf_anc_iff]
    simp [ancOpcodes]
  have hp := populates_of_mem hop
  refine ⟨fun h => ?usbc, fun h => ?anc, fun h => ?alr, fun h => ?arr, fun h => ?axs⟩
  case usbc =>
    obtain ⟨t, ht, hafter, ha, hx, hy, hsp, hflags⟩ :=
      readClass_imm_after h hp v (fun v u => u.subCore v) hr fun _ _ => rfl
    exact ⟨t, ht, ⟨hx, hy, hsp⟩, hafter, State.subtracted_of_afterSub ha hflags⟩
  case anc =>
    obtain ⟨t, ht, hafter, ha, hx, hy, hsp, hflags⟩ :=
      readClass_imm_after h hp v
        (fun v u => { u with a := u.a &&& v, p := { u.p.setNZ (u.a &&& v) with c := (u.a &&& v).getLsbD 7 } }) hr
        fun _ _ => rfl
    exact ⟨t, ht, ⟨hx, hy, hsp⟩, hafter, ha, by rw [hflags, ha]; rfl⟩
  case alr =>
    obtain ⟨t, ht, hafter, ha, hx, hy, hsp, hflags⟩ :=
      readClass_imm_after h hp v (fun v u => { u with a := u.a &&& v }.coreOnA shiftLSR) hr fun _ _ => rfl
    exact ⟨t, ht, ⟨hx, hy, hsp⟩, hafter, ha ▸ shiftLSR_toNat _ s.p, by rw [hflags, ha]; exact shiftLSR_flags _ s.p⟩
  case arr =>
    obtain ⟨t, ht, hafter, ha, hx, hy, hsp, hflags⟩ :=
      readClass_imm_after h hp v
        (fun v u =>
          let r := (shiftROR (u.a &&& v) u.p).1
          { u with a := r, p := { u.p.setNZ r with c := r.getLsbD 6, v := r.getLsbD 6 ^^ r.getLsbD 5 } }) hr
        fun _ _ => rfl
    exact ⟨t, ht, ⟨hx, hy, hsp⟩, hafter, ha ▸ shiftROR_toNat _ s.p, by rw [hflags, ha]; rfl⟩
  case axs =>
    obtain ⟨t, ht, hafter, ha, hx, hy, hsp, hflags⟩ :=
      readClass_imm_after h hp v
        (fun v u => { u with x := subResult (u.a &&& u.x) v true, p := u.p.afterCompare (u.a &&& u.x) v }) hr
        fun _ _ => rfl
    rw [subResult_no_borrow] at hx
    refine ⟨t, ht, ha, hy, hsp, hafter, hx, ?_⟩
    rw [hflags, afterCompare_eq, hx]
    simp only [sub_eq_zero]

/-! ### LAS, XAA and LXA -/

/-- Settles O55: LAS is a read, and XAA and LXA compute what they write from the byte drawn first. -/
theorem lasXaaLxaComplete : Obligations.LasXaaLxaComplete := by
  unfold Obligations.LasXaaLxaComplete
  refine ⟨fun w v => ⟨rfl, rfl, rfl⟩, fun w v op s hop hr => ?_⟩
  have hp := populates_of_mem hop
  refine ⟨fun h => ?las, fun h => ?xaa, fun h => ?lxa⟩
  case las =>
    obtain ⟨t, ht, hafter, ha, hx, hy, hsp, hflags⟩ :=
      readClass_registers h hp (.absY w)
        (fun v u => { u with a := v &&& u.sp, x := v &&& u.sp, sp := v &&& u.sp, p := u.p.setNZ (v &&& u.sp) }) hr
        fun _ _ => rfl
    exact ⟨t, ht, ha, hx.trans ha.symm, hsp.trans ha.symm, hy, by rw [hflags, ha]; rfl, hafter⟩
  case xaa =>
    obtain ⟨t, ht, ⟨hpc, hcharge, hbus, hdraws, hrun, hmem⟩, ha, hx, hy, hsp, hflags⟩ :=
      readClass_imm_drawByte_after h hp v (fun v k u => u.loadA ((u.a ||| k) &&& u.x &&& v)) hr fun _ _ _ => rfl
    exact ⟨t, ht, ha, ⟨hx, hy, hsp⟩, by rw [hflags, ha]; rfl, hdraws, hpc, hcharge, hbus, hrun, hmem⟩
  case lxa =>
    obtain ⟨t, ht, ⟨hpc, hcharge, hbus, hdraws, hrun, hmem⟩, ha, hx, hy, hsp, hflags⟩ :=
      readClass_imm_drawByte_after h hp v
        (fun v k u => { u.loadA ((u.a ||| k) &&& v) with x := (u.a ||| k) &&& v }) hr fun _ _ _ => rfl
    exact ⟨t, ht, ha, hx.trans ha.symm, hy, hsp, by rw [hflags, ha]; rfl, hdraws, hpc, hcharge, hbus, hrun, hmem⟩

/-! ### Unstable stores -/

/-- The byte an unstable store writes for its value `v`: across a page a free one (R329 to R332). -/
def State.unstableByte (s : State) (m : Mode) (v : Byte) : Byte :=
  if (s.resolve m).1.crossed then Config.freeByte ((s.resolve m).2.draws + 1)
  else v &&& (hiByte (s.resolve m).1.base + 1)

/-- The draws after an unstable store: across a page an address and a byte more than its resolver's. -/
def State.unstableDraws (s : State) (m : Mode) : Nat :=
  if (s.resolve m).1.crossed then (s.resolve m).2.draws + 2 else (s.resolve m).2.draws

/-- The effect of an unstable store of the value `v`, but for SP: one write, of a free byte to a free address across a
page (R329 to R332). -/
def State.AfterUnstableStore (s t : State) (m : Mode) (op v : Byte) : Prop :=
  s.Stored t (s.unstableAddr m) (s.unstableByte m v) ∧
  t.bus = .write (s.unstableAddr m) (s.unstableByte m v) :: (s.resolve m).2.bus ∧
  t.a = s.a ∧ t.x = s.x ∧ t.y = s.y ∧ t.p = s.p ∧ t.pc = s.pc ∧
  s.Charged t op (if (s.resolve m).1.crossed ∧ s.cfg.penaltyOnWrites then 1 else 0) ∧ s.SameRun t ∧
  t.draws = s.unstableDraws m

section
variable {i : Instr} {op : Byte} {s : State} (h : i.opcodeOf = some op) (hp : s.cfg.populates op = true)
include h hp

/-- An unstable store that sets SP to `q` first is one write, across a page or not. -/
theorem unstableStore_eq_busWrite (m : Mode) (q v : State → Byte) :
    unstableStore i m (fun u => { u with sp := q u }) v s =
      let u : State := { (s.resolve m).2 with sp := q (s.resolve m).2 }
      complete op (writePenalty s.cfg (s.resolve m).1.crossed)
        (State.busWrite (s.unstableAddr m) (s.unstableByte m (v u)) { u with draws := s.unstableDraws m }) := by
  refine (withRow_some h hp).trans ?_
  unfold State.unstableAddr State.unstableByte State.unstableDraws
  obtain ⟨⟨ea, base, crossed⟩, u⟩ := s.resolve m
  cases crossed with
  | false => rfl
  | true => rfl

/-- An unstable store in a ready state: the write of its value, and SP. -/
theorem unstableStore_after (m : Mode) (q v : State → Byte) (hr : s.Ready) (hw : s.mem.wf = true) :
    let u : State := { (s.resolve m).2 with sp := q (s.resolve m).2 }
    ∃ t, unstableStore i m (fun u => { u with sp := q u }) v s = .next t ∧ s.AfterUnstableStore t m op (v u) ∧
      t.sp = q (s.resolve m).2 := by
  have hf : State.Full { (s.resolve m).2 with sp := q (s.resolve m).2, draws := s.unstableDraws m } :=
    hr.2.resolve m
  have hfault {a b} := (State.busWrite_fault hf a b).trans (State.resolve_fault hr.2 m)
  rw [unstableStore_eq_busWrite h hp m q v]
  refine ⟨_, complete_next op _ (hfault.trans hr.1), ⟨?stored, State.busWrite_bus hf _ _, by simp, by simp, by simp,
    by simp, by simp, by simp [State.Charged, writePenalty_eq], ⟨by simp, hfault, by simp, by simp, by simp⟩,
    by simp⟩, by simp⟩
  case stored =>
    exact stored_of_write hf (by simpa using hw) _ _ (fun b => .inl (State.peek_congr (by simp) b)) (by simp) rfl

end

/-- Settles O56: each of the four is an unstable store, TAS's after its write of SP. -/
theorem unstableStoresComplete : Obligations.UnstableStoresComplete := by
  unfold Obligations.UnstableStoresComplete
  refine ⟨fun m w => ⟨rfl, rfl, rfl, rfl⟩, fun m w op s hop hr hw => ?_⟩
  have hp := populates_of_mem hop
  refine ⟨fun h => ?ahx, fun h => ?shy, fun h => ?shx, fun h => ?tas⟩
  case ahx =>
    obtain ⟨t, ht, hafter, hsp⟩ := unstableStore_after h hp m (fun u => u.sp) (fun u => u.a &&& u.x) hr hw
    rw [State.resolve_a, State.resolve_x] at hafter
    rw [State.resolve_sp] at hsp
    exact ⟨t, ht, hafter, hsp⟩
  case shy => exact unstableStore_after h hp (.absX w) (fun u => u.sp) (fun u => u.y) hr hw
  case shx => exact unstableStore_after h hp (.absY w) (fun u => u.sp) (fun u => u.x) hr hw
  case tas => exact unstableStore_after h hp (.absY w) (fun u => u.a &&& u.x) (fun u => u.sp) hr hw

end Sys2Proof.Machine
end

section
/-! Exceptions and reset (R37, R373 to R382, R410): the bits of the status byte, the interrupt entry, the calls that take
an interrupt, the return from BRK, and the reset sequence. -/

namespace Sys2Proof.Machine

/-! ### The bits of the status byte -/

/-- Bit by bit, the status byte is the seven flags and the value of bit 5 (R28). -/
theorem Flags.toByte_getLsbD (bit5 : Bool) (p : Flags) (k : Nat) :
    (p.toByte bit5).getLsbD k = [p.c, p.z, p.i, p.d, p.b, bit5, p.v, p.n].getD k false := by
  obtain ⟨c, z, i, d, b, v, n⟩ := p
  have hbits : ∀ c z i d b v n bit5 : Bool, ∀ k : Fin 8,
      (Flags.toByte bit5 ⟨c, z, i, d, b, v, n⟩).getLsbD k = [c, z, i, d, b, bit5, v, n].getD k false := by decide
  by_cases hk : k < 8
  · exact hbits c z i d b v n bit5 ⟨k, hk⟩
  · rw [BitVec.getLsbD_of_ge _ _ (by omega), List.getD_eq_default _ _ (by simpa using hk)]

/-- A byte written as the status reads back but for bit 5, which has no storage (R29, R30). -/
theorem Flags.toByte_ofByte (bit5 : Bool) (b : Byte) :
    (Flags.ofByte b).toByte bit5 = (b &&& 0xDF) ||| (if bit5 then 0x20 else 0x00) := by
  refine BitVec.eq_of_getLsbD_eq fun k hk => ?_
  rw [Flags.toByte_getLsbD]
  cases bit5 <;> interval_cases k <;> simp [Flags.ofByte]

/-- A status byte pushed with bit 4 set is popped as the flags with B set (R292, R293). -/
theorem Flags.ofByte_toByte_or_b (bit5 : Bool) (p : Flags) :
    Flags.ofByte (p.toByte bit5 ||| 0x10) = { p with b := true } := by
  simp only [Flags.ofByte, BitVec.getLsbD_or, Flags.toByte_getLsbD]
  simp

/-- Settles O58: the bits of the status byte at the seven indices, and the byte read back. -/
theorem flagAccessors : Obligations.FlagAccessors := by
  unfold Obligations.FlagAccessors
  refine fun i b s => ⟨fun ⟨h0, h7, h5⟩ => ?bit, fun h => ?outside, Flags.toByte_ofByte s.cfg.bit5Value b⟩
  case bit =>
    rw [State.statusByte, Flags.toByte_getLsbD]
    obtain rfl | rfl | rfl | rfl | rfl | rfl | rfl : i = 0 ∨ i = 1 ∨ i = 2 ∨ i = 3 ∨ i = 4 ∨ i = 6 ∨ i = 7 := by
      omega
    all_goals rfl
  case outside =>
    unfold getFlag
    rw [if_neg (by omega), if_neg (by omega), if_neg (by omega), if_neg (by omega), if_neg (by omega),
      if_neg (by omega), if_neg (by omega)]

/-! ### The interrupt entry -/

/-- The state in which the interrupt entry reads its vector: PC and the status byte `p` pushed, I set (R375). -/
def State.vectorState (p : Byte) (s : State) : State :=
  let s1 := (s.pushWord s.pc).push p
  { s1 with p := { s1.p with i := true } }

theorem State.interruptEntry_eq (vector : Word) (p : Byte) (s : State) :
    s.interruptEntry vector p =
      { ((s.vectorState p).readWord vector).2 with pc := ((s.vectorState p).readWord vector).1 } := rfl

theorem stackAddr_sub_one_ne_sub_two (a : Byte) : stackAddr (a - 1) ≠ stackAddr (a - 2) := fun h => by
  have := stackAddr_inj h
  bv_omega

section
variable {s : State} (vector : Word) (p : Byte)

theorem State.interruptEntry_mem : (s.interruptEntry vector p).mem = ((s.pushWord s.pc).push p).mem := by
  simp [State.interruptEntry_eq, State.vectorState]

theorem State.stackAddr_pushWord_sp (w : Word) : stackAddr (s.pushWord w).sp = stackAddr (s.sp - 2) := by
  rw [State.pushWord_sp, BitVec.sub_sub]
  rfl

/-- The pushes of PC and the status byte, then the two reads of the vector, the low byte's first (R375). -/
theorem State.interruptEntry_bus (h : s.Full) :
    (s.interruptEntry vector p).bus =
      .read (vector + 1) (hiByte (s.interruptEntry vector p).pc) ::
        .read vector (loByte (s.interruptEntry vector p).pc) :: .write (stackAddr (s.sp - 2)) p ::
          .write (stackAddr (s.sp - 1)) (loByte s.pc) :: .write (stackAddr s.sp) (hiByte s.pc) :: s.bus := by
  have hpushed : (s.vectorState p).bus = .write (stackAddr (s.sp - 2)) p :: (s.pushWord s.pc).bus := by
    rw [← State.stackAddr_pushWord_sp s.pc]
    exact State.push_bus (h.of_memSize (by simp)) p
  rw [← State.pushWord_bus h, ← hpushed, State.interruptEntry_eq]
  exact State.readWord_bus (s := s.vectorState p) (h.of_memSize (by simp [State.vectorState])) vector

/-- At plain addresses PC is the word of the vector's cells, as the pushes have left them (R375). -/
theorem State.interruptEntry_pc (hplain : s.Plain [vector, vector + 1]) :
    (s.interruptEntry vector p).pc =
      cat ((s.interruptEntry vector p).peek (vector + 1)) ((s.interruptEntry vector p).peek vector) := by
  have hdev : (s.vectorState p).dev = s.dev := by simp [State.vectorState]
  have hcells := State.peek_congr (s := s.vectorState p) (State.interruptEntry_mem vector p)
  rw [hcells, hcells]
  exact State.readWord_plain fun a ha => (State.inDev_congr hdev a).trans (hplain a ha)

/-- The push of the status byte leaves every cell but its own. -/
theorem State.peek_interruptEntry_other {b : Word} (hb : b ≠ stackAddr (s.sp - 2)) :
    (s.interruptEntry vector p).peek b = (s.pushWord s.pc).peek b := by
  rw [← State.stackAddr_pushWord_sp s.pc] at hb
  exact (State.peek_congr (State.interruptEntry_mem vector p) b).trans (State.peek_push_other hb p)

theorem State.peek_interruptEntry_hi :
    (s.interruptEntry vector p).peek (stackAddr s.sp) = (s.push (hiByte s.pc)).peek (stackAddr s.sp) :=
  (State.peek_interruptEntry_other vector p (stackAddr_ne_two s.sp).symm).trans (State.peek_pushWord_hi s.pc)

theorem State.peek_interruptEntry_lo :
    (s.interruptEntry vector p).peek (stackAddr (s.sp - 1)) = (s.pushWord s.pc).peek (stackAddr (s.sp - 1)) :=
  State.peek_interruptEntry_other vector p (stackAddr_sub_one_ne_sub_two s.sp)

theorem State.peek_interruptEntry_status (h : s.Full) (hw : s.mem.wf = true)
    (hd : s.inDev (stackAddr (s.sp - 2)) = false) :
    (s.interruptEntry vector p).peek (stackAddr (s.sp - 2)) = p := by
  rw [← State.stackAddr_pushWord_sp s.pc] at hd ⊢
  exact (State.peek_congr (State.interruptEntry_mem vector p) _).trans <|
    State.peek_push_same (h.of_memSize (by simp)) ((kept_pushWord _ s).wf hw)
      ((State.inDev_congr (by simp) _).trans hd) p

theorem State.interruptEntry_sameMemBut :
    s.SameMemBut (s.interruptEntry vector p) [stackAddr s.sp, stackAddr (s.sp - 1), stackAddr (s.sp - 2)] := by
  intro b hb
  have hst : b ≠ stackAddr (s.sp - 2) := fun e => hb (by simp [e])
  have hword : b ∉ [stackAddr s.sp, stackAddr (s.sp - 1)] := fun hm => hb (List.mem_append_left _ hm)
  exact (State.peek_interruptEntry_other vector p hst).trans (State.pushWord_sameMemBut s.pc b hword)

/-- A custom handler at the status byte's address leaves its cell, which the push of PC does not reach. -/
theorem State.peek_interruptEntry_status_dev (hd : s.inDev (stackAddr (s.sp - 2)) = true) :
    (s.interruptEntry vector p).peek (stackAddr (s.sp - 2)) = s.peek (stackAddr (s.sp - 2)) := by
  have hword : stackAddr (s.sp - 2) ∉ [stackAddr s.sp, stackAddr (s.sp - 1)] := fun hm =>
    (List.mem_pair.mp hm).elim (stackAddr_ne_two s.sp) (stackAddr_sub_one_ne_sub_two s.sp).symm
  refine Eq.trans ?_ (State.pushWord_sameMemBut s.pc _ hword)
  rw [← State.stackAddr_pushWord_sp s.pc] at hd ⊢
  exact (State.peek_congr (State.interruptEntry_mem vector p) _).trans
    (State.peek_push_dev ((State.inDev_congr (by simp) _).trans hd) p _)

end

/-- Settles O23: the push of a word and of a byte, then the read of the vector. -/
theorem interruptEntrySequence : Obligations.InterruptEntrySequence := by
  unfold Obligations.InterruptEntrySequence
  intro vector p s h hw
  refine ⟨by simp [BitVec.sub_sub], by simp, by simp, by simp, by simp, by simp,
    by simp [State.SameRun, State.interruptEntry_fault h], State.interruptEntry_sameMemBut vector p, ?hi, ?lo,
    State.peek_interruptEntry_status vector p h hw, ?hiDev, ?loDev, State.peek_interruptEntry_status_dev vector p,
    State.interruptEntry_pc vector p, State.interruptEntry_bus vector p h⟩
  case hi => exact fun hd => (State.peek_interruptEntry_hi vector p).trans (State.peek_push_same h hw hd _)
  case lo => exact fun hd => (State.peek_interruptEntry_lo vector p).trans (State.peek_pushWord_lo h hw hd _)
  case hiDev => exact fun hd => (State.peek_interruptEntry_hi vector p).trans (State.peek_push_dev hd _ _)
  case loDev => exact fun hd => (State.peek_interruptEntry_lo vector p).trans (State.peek_pushWord_lo_dev hd _)

/-! ### The calls that take an interrupt -/

theorem irqCall_idle {s : State} (h : s.halted = true ∨ s.fault ≠ none ∨ s.p.i = true) : irqCall s = .next s := by
  refine if_pos ?_
  simpa [Option.isSome_iff_ne_none, or_assoc] using h

theorem nmiCall_idle {s : State} (h : s.halted = true ∨ s.fault ≠ none) : nmiCall s = .next s := by
  refine if_pos ?_
  simpa [Option.isSome_iff_ne_none] using h

theorem takeInterrupt_next {s : State} (hr : s.Ready) (vector : Word) :
    takeInterrupt vector s =
      .next { s.interruptEntry vector s.statusByte with cycles := s.cycles + interruptCycles } := by
  have hf : (s.interruptEntry vector s.statusByte).fault = none :=
    (State.interruptEntry_fault hr.2 vector s.statusByte).trans hr.1
  have hc := State.interruptEntry_cycles vector s.statusByte s
  unfold takeInterrupt
  generalize s.interruptEntry vector s.statusByte = u at hf hc ⊢
  rw [← hc]
  exact commit_next hf

/-- Settles O24: a call that is not ignored takes its interrupt. -/
theorem interruptCalls : Obligations.InterruptCalls := by
  unfold Obligations.InterruptCalls
  refine fun s => ⟨fun h => ⟨irqCall_idle (or_assoc.mp (.inl h)), nmiCall_idle h⟩,
    fun hi => irqCall_idle (.inr (.inr hi)), fun hrun hr => ⟨fun hi => ?irq, ?nmi⟩⟩
  case irq => exact (irqCall_running hrun hr.1 hi).trans (takeInterrupt_next hr irqVector)
  case nmi => exact (nmiCall_running hrun hr.1).trans (takeInterrupt_next hr nmiVector)

/-! ### BRK, then RTI -/

/-- Plain stack cells give back PC and the status byte that the interrupt entry pushed: `t` is any state with the stack
pointer, the cells and the handlers that the entry left. -/
theorem State.returnFromInterrupt_of_interruptEntry {s t : State} (h : s.Full) (hw : s.mem.wf = true)
    (hplain : s.Plain [stackAddr s.sp, stackAddr (s.sp - 1), stackAddr (s.sp - 2)]) (vector : Word) (p : Byte)
    (hsp : t.sp = (s.interruptEntry vector p).sp) (hmem : t.mem = (s.interruptEntry vector p).mem)
    (hdev : t.dev = s.dev) :
    t.returnFromInterrupt.pc = s.pc ∧ t.returnFromInterrupt.p = Flags.ofByte p := by
  obtain ⟨hd1, hd2, hd3⟩ : s.inDev (stackAddr s.sp) = false ∧ s.inDev (stackAddr (s.sp - 1)) = false ∧
      s.inDev (stackAddr (s.sp - 2)) = false := by simpa [State.Plain] using hplain
  rw [State.interruptEntry_sp] at hsp
  have e1 : t.sp + 1 = s.sp - 2 := by bv_omega
  have e2 : t.sp + 2 = s.sp - 1 := by bv_omega
  have e3 : t.sp + 3 = s.sp := by bv_omega
  have hlo : loByte t.returnFromInterrupt.pc = loByte s.pc := by
    rw [State.returnFromInterrupt_pc_lo (by rw [e2, State.inDev_congr hdev, hd2]), e2, State.peek_congr hmem,
      State.peek_interruptEntry_lo, State.peek_pushWord_lo h hw hd2]
  have hhi : hiByte t.returnFromInterrupt.pc = hiByte s.pc := by
    rw [State.returnFromInterrupt_pc_hi (by rw [e3, State.inDev_congr hdev, hd1]), e3, State.peek_congr hmem,
      State.peek_interruptEntry_hi, State.peek_push_same h hw hd1]
  constructor
  · rw [← cat_hiByte_loByte t.returnFromInterrupt.pc, hhi, hlo, cat_hiByte_loByte]
  · rw [State.returnFromInterrupt_p, State.pop_value (by rw [e1, State.inDev_congr hdev, hd3]), e1,
      State.peek_congr hmem, State.peek_interruptEntry_status vector p h hw hd3]

/-- Settles O27: RTI pops what BRK pushed, the status byte with bit 4 set. -/
theorem brkThenRtiRestores : Obligations.BrkThenRtiRestores := by
  unfold Obligations.BrkThenRtiRestores
  intro pad q s t u hr hw hplain hbrk hrti
  have ht := Host.Outcome.next.inj (hbrk.symm.trans (exec_brk_next pad hr))
  have hready : State.Ready { t with pc := q } :=
    ⟨by simp [ht, State.interruptEntry_fault hr.2, hr.1], hr.2.of_memSize (by simp [ht])⟩
  obtain rfl := Host.Outcome.next.inj ((exec_rti_next hready).symm.trans hrti)
  obtain ⟨hpc, hp⟩ := State.returnFromInterrupt_of_interruptEntry hr.2 hw hplain irqVector (s.statusByte ||| 0x10)
    (t := State.throwaway { t with pc := q }) (by simp [ht]) (by simp [ht]) (by simp [ht])
  refine ⟨hpc, hp.trans (Flags.ofByte_toByte_or_b _ _), by simp [ht], by simp [ht], by simp [ht], by simp [ht],
    fun b hb => ?mem⟩
  case mem =>
    exact (State.peek_congr (by simp [ht]) b).trans
      (State.interruptEntry_sameMemBut irqVector (s.statusByte ||| 0x10) b hb)

/-! ### The reset sequence -/

/-- The state in which `reset()` reads its vector (R410). -/
def State.resetState (s : State) : State :=
  { s with
    a := Config.freeByte s.draws
    x := Config.freeByte (s.draws + 1)
    y := Config.freeByte (s.draws + 2)
    draws := s.draws + 3
    sp := 0xFD
    p := { c := false, z := true, i := true, d := false, b := false, v := false, n := false }
    cycles := 0
    halted := false
    fault := none }

theorem resetCall_next {s : State} (h : s.Full) :
    resetCall s = .next
      { (s.resetState.readWord resetVector).2 with pc := (s.resetState.readWord resetVector).1 } :=
  commit_next (State.readWord_fault (s := s.resetState) h resetVector)

theorem State.readWord_lo {s : State} {a : Word} (hd : s.inDev a = false) : loByte (s.readWord a).1 = s.peek a :=
  (loByte_cat _ _).trans (State.busRead_plain hd)

theorem State.readWord_hi {s : State} {a : Word} (hd : s.inDev (a + 1) = false) :
    hiByte (s.readWord a).1 = s.peek (a + 1) :=
  (hiByte_cat _ _).trans <| (State.busRead_plain ((State.inDev_congr (by simp) _).trans hd)).trans
    (State.peek_congr (by simp) _)

/-- Settles O12: a word read in the state that has the values of R410. -/
theorem resetSequence : Obligations.ResetSequence := by
  unfold Obligations.ResetSequence
  intro s h
  have hf : s.resetState.Full := h
  let u := s.resetState
  exact ⟨_, loByte (u.readWord resetVector).1, hiByte (u.readWord resetVector).1, resetCall_next h,
    State.readWord_a resetVector u, State.readWord_x resetVector u, State.readWord_y resetVector u,
    State.readWord_p resetVector u, State.readWord_sp resetVector u, State.readWord_cycles resetVector u,
    State.readWord_halted resetVector u, State.readWord_fault hf resetVector, (cat_hiByte_loByte _).symm,
    State.readWord_bus hf resetVector, State.readWord_lo (s := u), State.readWord_hi (s := u) (a := resetVector),
    State.readWord_mem resetVector u, State.readWord_memSize resetVector u, State.readWord_dev resetVector u,
    State.readWord_cfg resetVector u⟩

end Sys2Proof.Machine
end

section
/-! Two machines that differ in the cycle counter and the timing parameters only (R427): every operation runs alike on
both, and so every instruction ends alike but for its charge. -/

namespace Sys2Proof.Machine

/-! ### The timing of a machine -/

/-- The cycle counter and the timing parameters (R34, R134, R115, R137). -/
structure Timing where
  cycles : Nat
  baseCycles : List (Byte × Nat)
  penaltyOnWrites : Bool
  kilCycles : Nat

/-- The state with the counter and the timing parameters replaced. -/
def State.withTiming (τ : Timing) (s : State) : State :=
  { s with
    cycles := τ.cycles
    cfg := { s.cfg with
      baseCycles := τ.baseCycles
      penaltyOnWrites := τ.penaltyOnWrites
      kilCycles := τ.kilCycles } }

/-- The operand with the timing of its state replaced. -/
def Operand.withTiming (τ : Timing) (o : Operand) : Operand := { o with st := o.st.withTiming τ }

theorem State.sameButTiming_iff {s t : State} : s.SameButTiming t ↔ ∃ τ, t = s.withTiming τ := by
  constructor
  · exact fun h => ⟨⟨t.cycles, t.cfg.baseCycles, t.cfg.penaltyOnWrites, t.cfg.kilCycles⟩, h⟩
  · rintro ⟨τ, rfl⟩
    rfl

theorem State.sameButTiming_withTiming (τ : Timing) (s : State) : s.SameButTiming (s.withTiming τ) := rfl

/-! ### The operations -/

section
variable (τ : Timing) (s : State)

@[simp] theorem State.withTiming_a : (s.withTiming τ).a = s.a := rfl
@[simp] theorem State.withTiming_x : (s.withTiming τ).x = s.x := rfl
@[simp] theorem State.withTiming_y : (s.withTiming τ).y = s.y := rfl
@[simp] theorem State.withTiming_sp : (s.withTiming τ).sp = s.sp := rfl
@[simp] theorem State.withTiming_pc : (s.withTiming τ).pc = s.pc := rfl
@[simp] theorem State.withTiming_p : (s.withTiming τ).p = s.p := rfl
@[simp] theorem State.withTiming_halted : (s.withTiming τ).halted = s.halted := rfl
@[simp] theorem State.withTiming_fault : (s.withTiming τ).fault = s.fault := rfl
@[simp] theorem State.withTiming_statusByte : (s.withTiming τ).statusByte = s.statusByte := rfl
@[simp] theorem State.withTiming_zpPointerWrap : (s.withTiming τ).cfg.zpPointerWrap = s.cfg.zpPointerWrap := rfl
@[simp] theorem State.withTiming_populates (op : Byte) :
    (s.withTiming τ).cfg.populates op = s.cfg.populates op := rfl
@[simp] theorem State.withTiming_classOf (op : Byte) : (s.withTiming τ).cfg.classOf op = s.cfg.classOf op := rfl

@[simp] theorem State.busRead_withTiming (a : Word) :
    (s.withTiming τ).busRead a = ((s.busRead a).1, (s.busRead a).2.withTiming τ) := by
  refine Prod.ext ?_ ?_
  · simp only [State.busRead_value]
    rfl
  · simp only [State.busRead_state, State.busRead_value]
    rfl

@[simp] theorem State.busWrite_withTiming (a : Word) (v : Byte) :
    (s.withTiming τ).busWrite a v = (s.busWrite a v).withTiming τ := by
  simp only [State.busWrite_state]
  rfl

@[simp] theorem State.readWord_withTiming (a : Word) :
    (s.withTiming τ).readWord a = ((s.readWord a).1, (s.readWord a).2.withTiming τ) := by
  simp [State.readWord]

@[simp] theorem State.fetch8_withTiming : (s.withTiming τ).fetch8 = (s.fetch8.1, s.fetch8.2.withTiming τ) := by
  simp only [State.fetch8, State.withTiming_pc, State.busRead_withTiming]
  rfl

@[simp] theorem State.throwaway_withTiming : (s.withTiming τ).throwaway = s.throwaway.withTiming τ := by
  simp [State.throwaway]

@[simp] theorem State.push_withTiming (v : Byte) : (s.withTiming τ).push v = (s.push v).withTiming τ := by
  simp only [State.push, State.withTiming_sp, State.busWrite_withTiming]
  rfl

@[simp] theorem State.pop_withTiming : (s.withTiming τ).pop = (s.pop.1, s.pop.2.withTiming τ) :=
  State.busRead_withTiming τ { s with sp := s.sp + 1 } _

@[simp] theorem State.pushWord_withTiming (w : Word) :
    (s.withTiming τ).pushWord w = (s.pushWord w).withTiming τ := by
  simp [State.pushWord]

@[simp] theorem State.popWord_withTiming :
    (s.withTiming τ).popWord = (s.popWord.1, s.popWord.2.withTiming τ) := by
  simp [State.popWord]

theorem State.vectorState_withTiming (p : Byte) :
    (s.withTiming τ).vectorState p = (s.vectorState p).withTiming τ := by
  simp only [State.vectorState, State.withTiming_pc, State.pushWord_withTiming, State.push_withTiming]
  rfl

theorem State.interruptEntry_withTiming (vector : Word) (p : Byte) :
    (s.withTiming τ).interruptEntry vector p = (s.interruptEntry vector p).withTiming τ := by
  simp only [State.interruptEntry_eq, State.vectorState_withTiming, State.readWord_withTiming]
  rfl

theorem State.returnFromInterrupt_withTiming :
    (s.withTiming τ).returnFromInterrupt = s.returnFromInterrupt.withTiming τ := by
  have hstatus (b : Byte) (u : State) : (u.withTiming τ).setStatus b = (u.setStatus b).withTiming τ := rfl
  simp only [State.returnFromInterrupt, State.pop_withTiming, hstatus, State.popWord_withTiming]
  rfl

@[simp] theorem State.resolve_withTiming (m : Mode) :
    (s.withTiming τ).resolve m = ((s.resolve m).1, (s.resolve m).2.withTiming τ) := by
  cases m
  case ind | izx | izy => simp [State.resolve, State.jmpPointer, State.zpPointer]
  all_goals rfl

theorem State.readOperand_withTiming (m : Mode) :
    (s.withTiming τ).readOperand m = (s.readOperand m).withTiming τ := by
  cases m
  case imp | acc | imm => rfl
  all_goals
    simp only [State.readOperand, State.resolve_withTiming, State.busRead_withTiming]
    rfl

theorem State.rmw_withTiming (m : Mode) (k : ByteCore) :
    (s.withTiming τ).rmw m k = (s.rmw m k).withTiming τ := by
  by_cases hm : m = .acc
  · subst hm
    rfl
  · simp only [State.rmw_memory k _ hm, State.resolve_withTiming, State.busRead_withTiming,
      State.busWrite_withTiming, State.withTiming_p]
    rfl

/-- The fetch reads the parameters for the opcode's class only. -/
theorem State.fetchInstr_withTiming :
    (s.withTiming τ).fetchInstr = (s.fetchInstr.1, s.fetchInstr.2.withTiming τ) := by
  simp only [State.fetchInstr, State.fetch8_withTiming, State.withTiming_classOf]
  split
  · rfl
  · split <;> rfl

/-! ### The end of an instruction -/

theorem commit_related : Result.Related State.SameButTiming (commit s) (commit (s.withTiming τ)) := by
  unfold commit
  rw [State.withTiming_fault]
  split
  · exact rfl
  · exact State.sameButTiming_withTiming τ s

/-- Whatever the two machines charge, the ends agree. -/
theorem complete_related (op : Byte) (n k : Nat) :
    Result.Related State.SameButTiming (complete op n s) (complete op k (s.withTiming τ)) :=
  commit_related { τ with cycles := τ.cycles + ((s.withTiming τ).cfg.baseCyclesOf op + k) }
    { s with cycles := s.cycles + (s.cfg.baseCyclesOf op + n) }

end

/-! ### The instruction classes -/

/-- The operation runs alike under every timing. -/
def IgnoresTiming (f : State → State) : Prop := ∀ τ s, f (s.withTiming τ) = (f s).withTiming τ

section
variable (i : Instr) (m : Mode) (τ : Timing) (s : State)

theorem withRow_related {g k : Byte → Result} (h : ∀ op, Result.Related State.SameButTiming (g op) (k op)) :
    Result.Related State.SameButTiming (withRow i s g) (withRow i (s.withTiming τ) k) := by
  unfold withRow
  cases i.opcodeOf with
  | none => exact rfl
  | some op =>
    by_cases hp : s.cfg.populates op = true
    · simpa only [State.withTiming_populates, hp, if_true] using h op
    · simp only [State.withTiming_populates, hp]
      exact State.sameButTiming_withTiming τ { s with fault := some (unpopulatedFailure s.cfg op) }

theorem readClass_related {f : Byte → State → State} (hf : ∀ v, IgnoresTiming (f v)) :
    Result.Related State.SameButTiming (readClass i m f s) (readClass i m f (s.withTiming τ)) :=
  withRow_related i τ s fun op => by
    simp only [State.readOperand_withTiming, Operand.withTiming, hf _ _ _]
    exact complete_related τ _ op _ _

theorem rmwClass_related (k : ByteCore) {f : Byte → State → State} (hf : ∀ v, IgnoresTiming (f v)) :
    Result.Related State.SameButTiming (rmwClass i m k f s) (rmwClass i m k f (s.withTiming τ)) :=
  withRow_related i τ s fun op => by
    simp only [State.rmw_withTiming, Operand.withTiming, hf _ _ _]
    exact complete_related τ _ op _ _

theorem impliedClass_related {f : State → State} (hf : IgnoresTiming f) :
    Result.Related State.SameButTiming (impliedClass i f s) (impliedClass i f (s.withTiming τ)) :=
  withRow_related i τ s fun op => by
    rw [hf]
    exact complete_related τ _ op _ _

theorem storeClass_related {v : State → Byte} (hv : ∀ τ s, v (s.withTiming τ) = v s) :
    Result.Related State.SameButTiming (storeClass i m v s) (storeClass i m v (s.withTiming τ)) :=
  withRow_related i τ s fun op => by
    simp only [State.resolve_withTiming, hv, State.busWrite_withTiming]
    exact complete_related τ _ op _ _

theorem branchClass_related (c : Bool) (d : Byte) :
    Result.Related State.SameButTiming (branchClass i c d s) (branchClass i c d (s.withTiming τ)) :=
  withRow_related i τ s fun op => by
    cases c with
    | false => exact complete_related τ s op _ _
    | true => exact complete_related τ { s with pc := s.pc + sext16 d } op _ _

theorem unstableStore_related {pre : State → State} {v : State → Byte} (hpre : IgnoresTiming pre)
    (hv : ∀ τ s, v (s.withTiming τ) = v s) :
    Result.Related State.SameButTiming (unstableStore i m pre v s) (unstableStore i m pre v (s.withTiming τ)) :=
  withRow_related i τ s fun op => by
    have hdraw (u : State) : (u.withTiming τ).drawWord.2.drawByte.2 = u.drawWord.2.drawByte.2.withTiming τ := rfl
    simp only [State.resolve_withTiming, hpre _ _, hv, hdraw, State.busWrite_withTiming]
    split
    · exact complete_related τ _ op _ _
    · exact complete_related τ _ op _ _

end

theorem exec_related (i : Instr) (τ : Timing) (s : State) :
    Result.Related State.SameButTiming (exec i s) (exec i (s.withTiming τ)) := by
  unfold exec
  cases i
  case lda | ldx | ldy | adc | sbc | and | ora | eor | cmp | cpx | cpy | bit | lax | nopUndoc | usbc | anc | alr | arr
      | axs | las | xaa | lxa =>
    exact readClass_related _ _ τ s fun _ _ _ => rfl
  case sta | stx | sty | sax => exact storeClass_related _ _ τ s fun _ _ => rfl
  case inc | dec | asl | lsr | rol | ror | slo | isc | rla | sre | rra | dcp =>
    exact rmwClass_related _ _ τ s _ fun _ _ _ => rfl
  case tax | tay | txa | tya | tsx | txs | inx | iny | dex | dey | clc | cld | cli | clv | sec | sed | sei | nop =>
    exact impliedClass_related _ τ s fun _ _ => rfl
  case bcc | bcs | beq | bmi | bne | bpl | bvc | bvs => exact branchClass_related _ τ s _ _
  case ahx | shy | shx | tas => exact unstableStore_related _ _ τ s (fun _ _ => rfl) fun _ _ => rfl
  case jmp m =>
    exact withRow_related _ τ s fun op => by
      simp only [State.resolve_withTiming]
      exact complete_related τ { (s.resolve m).2 with pc := (s.resolve m).1.ea } op 0 0
  case kil op =>
    exact withRow_related _ τ s fun _ =>
      commit_related { τ with cycles := τ.cycles + τ.kilCycles }
        { s with halted := true, cycles := s.cycles + s.cfg.kilCycles }
  case jsr w =>
    exact impliedClass_related _ τ s fun _ _ => by simp only [State.withTiming_pc, State.pushWord_withTiming]; rfl
  case rts =>
    exact impliedClass_related _ τ s fun _ _ => by
      simp only [State.throwaway_withTiming, State.popWord_withTiming]; rfl
  case pha | php =>
    exact impliedClass_related _ τ s fun _ _ => by simp
  case pla | plp =>
    exact impliedClass_related _ τ s fun _ _ => by simp only [State.throwaway_withTiming, State.pop_withTiming]; rfl
  case brk => exact impliedClass_related _ τ s fun τ s => State.interruptEntry_withTiming τ s _ _
  case rti =>
    exact impliedClass_related _ τ s fun _ _ => by
      rw [State.throwaway_withTiming, State.returnFromInterrupt_withTiming]

/-- Settles O17: the fetch and the instruction run alike on both machines. -/
theorem stepDoesNotReadCycles : Obligations.StepDoesNotReadCycles := by
  unfold Obligations.StepDoesNotReadCycles
  intro s t h
  obtain ⟨τ, rfl⟩ := State.sameButTiming_iff.mp h
  unfold step runFetched
  rw [State.withTiming_halted, State.withTiming_fault, State.fetchInstr_withTiming]
  split
  · exact State.sameButTiming_withTiming τ s
  · split
    · exact rfl
    · rw [State.withTiming_fault]
      split
      · exact rfl
      · exact exec_related _ τ _

end Sys2Proof.Machine
end
